-- ==== Sys2Proof/Word.lean ====
section
/-! DEFINITION. The words of the engine: register values, instruction words, CSR data, and the sixteen
register indices with their role names (spec 00_scope.md R6, R9; 10_state.md R30, R31). -/

namespace Sys2Proof

/-- A register value: an unsigned integer below `2^W` with `W = 1024` (R6, R30). Bit `i` weighs `2^i` (R9). -/
abbrev Word := BitVec 1024

/-- An instruction word (R100). -/
abbrev InstrWord := BitVec 32

/-- The 64-bit datum of a control and status register (R40). -/
abbrev CsrWord := BitVec 64

/-- An address of the CSR space (R71). -/
abbrev CsrAddr := BitVec 8

/-- A register index. Each of the 16 values names a register; none is invalid (R101). -/
abbrev Reg := Fin 16

/-- A remainder modulo `2^w`, the power written so that its exponents stay small. -/
theorem mod_lt_two_pow (n a b w : Nat) (h : a * b = w) : n % (2 ^ a) ^ b < 2 ^ w := by
  rw [← h, Nat.pow_mul]
  exact Nat.mod_lt _ (by positivity)

/-- `n` in a container of `w = a * b` bits. -/
def wrapTo (a b w : Nat) (h : a * b = w) (n : Nat) : BitVec w :=
  BitVec.ofNatLT (n % (2 ^ a) ^ b) (mod_lt_two_pow n a b w h)

/-- The number `n` in a register. The results the engine stores are below `2^W` (R34), so nothing is lost. This is
`BitVec.ofNat 1024 n`, with `2^1024` written as `(2^256)^4` so that Lean's evaluator computes it
(`Word.toNat_ofNat`, Laws/Basic.lean). -/
def Word.ofNat (n : Nat) : Word := wrapTo 256 4 1024 rfl n

/-! The role names of R31. A role is only another name of an index. -/

abbrev Reg.P : Reg := 0
abbrev Reg.Q : Reg := 1
abbrev Reg.N : Reg := 2
abbrev Reg.D : Reg := 3
abbrev Reg.M : Reg := 4
abbrev Reg.ONE : Reg := 5
abbrev Reg.SCRATCH1 : Reg := 6
abbrev Reg.A : Reg := 7
abbrev Reg.B : Reg := 8
abbrev Reg.X : Reg := 9
abbrev Reg.Y : Reg := 10
abbrev Reg.C : Reg := 11
abbrev Reg.POW : Reg := 12
abbrev Reg.POW2 : Reg := 13
abbrev Reg.T : Reg := 14
abbrev Reg.SCRATCH2 : Reg := 15

end Sys2Proof
end

