-- ==== Sys2Proof/Config.lean ====
section
/-! DEFINITION. What an implementation fixes and what the spec leaves free (spec 00_scope.md R6, R11;
10_state.md R54). -/

namespace Sys2Proof

/-- The number of registers, `N_REGS` (R6). -/
def Config.nRegs : Nat := 16

/-- `W`, the physical register width (R6). -/
def Config.width : Nat := 1024

/-- FREE VALUE (R11, R137, I3; notes/assumptions/5.md). The sequence of numbers behind the oracle `FaultDraw`:
the `n`-th draw of a run is `Config.faultDraw n` taken into the range `[0, L)`. It has no body, so nothing is
known of it beyond that range. -/
opaque Config.faultDraw : Nat → Nat

end Sys2Proof
end

