-- ==== Sys2Proof/Syntax.lean ====
section
/-! DEFINITION. The instructions: one constructor for each row of spec/opcode_table.json (spec 30_encoding.md
R102, R103). Field names follow R100: `nc` is the no-count bit, `rd`, `ra`, `rb` and `rm` are register indices. -/

namespace Sys2Proof

/-- One instruction as the host delivers it: the word's fields, and for `load_immediate` the `imm` operand that
travels beside the word (R73, R107). -/
inductive Instr where
  /-- `add_mod dst, a, b, m` (R140). -/
  | addMod (nc : Bool) (rd ra rb rm : Reg)
  /-- `sub_mod dst, a, b, m` (R141). -/
  | subMod (nc : Bool) (rd ra rb rm : Reg)
  /-- `mul_mod dst, a, b, m` (R142). -/
  | mulMod (nc : Bool) (rd ra rb rm : Reg)
  /-- `mod_copy dst, src, m` (R143). -/
  | modCopy (nc : Bool) (rd ra rm : Reg)
  /-- `copy dst, src` (R144). -/
  | copy (nc : Bool) (rd ra : Reg)
  /-- `mod_inverse dst, src, m` (R145). -/
  | modInverse (nc : Bool) (rd ra rm : Reg)
  /-- `add_inverse dst, src, m` (R146). -/
  | addInverse (nc : Bool) (rd ra rm : Reg)
  /-- `load_immediate dst, value` (R147). -/
  | loadImmediate (nc : Bool) (rd : Reg) (imm : Word)
  /-- `tick dst` (R148). -/
  | tick (rd : Reg)
  /-- `modexp acc, base, exp, m` (R190). -/
  | modexp (rd ra rb rm : Reg)
  /-- `sign noncrt`, MODE 0 (R210, R213). -/
  | signNoncrt
  /-- `sign crt_direct`, MODE 1 (R210, R214). -/
  | signCrtDirect
  /-- `sign crt_shamir`, MODE 2 (R210, R218). -/
  | signCrtShamir
  deriving DecidableEq, Repr

end Sys2Proof
end

