-- ==== Sys2Proof/WellFormed.lean ====
section
/-! DEFINITION. What may be ill formed. The fields of `Instr` admit only legal values (R101: no register index is
invalid), so every term of `Instr` is an instruction; what can be ill formed is a WORD, by one of the five causes
of R106, each a check below, and an instruction standing as a MICRO-OP (R114). The checks on words are written
from R100, R102 and R106 and share nothing with the match and mask table of R103 that Decode.lean uses. -/

namespace Sys2Proof

/-- R106, first cause: `OPC` is one of 0x1 to 0xB. -/
def opcodeAssigned (w : InstrWord) : Bool :=
  let opc := (w.extractLsb' 28 4).toNat
  decide (1 ≤ opc) && decide (opc ≤ 11)

/-- R106, second cause: `RES1` [26:24] and `RES2` [7:2] are 0. -/
def reservedClear (w : InstrWord) : Bool :=
  w.extractLsb' 24 3 == 0#3 && w.extractLsb' 2 6 == 0#6

/-- R106, third cause: a register field that the row of R102 marks 0 is 0. -/
def unusedClear (w : InstrWord) : Bool :=
  let rd := w.extractLsb' 20 4 == 0#4
  let ra := w.extractLsb' 16 4 == 0#4
  let rb := w.extractLsb' 12 4 == 0#4
  let rm := w.extractLsb' 8 4 == 0#4
  match (w.extractLsb' 28 4).toNat with
  | 4 | 6 | 7 => rb
  | 5 => rb && rm
  | 8 | 9 => ra && rb && rm
  | 11 => rd && ra && rb && rm
  | _ => true

/-- R105, R106, fourth cause: `NC = 1` stands only on the opcodes 0x1 to 0x8. -/
def noCountAllowed (w : InstrWord) : Bool :=
  !w.getLsbD 27 || decide ((w.extractLsb' 28 4).toNat ≤ 8)

/-- R102, R104, R106, fifth cause: `MODE` is 0, 1 or 2 on `sign` and 0 elsewhere. -/
def modeAssigned (w : InstrWord) : Bool :=
  let mode := w.extractLsb' 0 2
  if (w.extractLsb' 28 4).toNat = 11 then mode != 3#2 else mode == 0#2

/-- A legal word is one that no cause of R106 makes illegal. -/
def legalWord (w : InstrWord) : Bool :=
  opcodeAssigned w && reservedClear w && unusedClear w && noCountAllowed w && modeAssigned w

/-- The nine primitives of 40_register_ops.md; `modexp` and the three `sign`s are macros (R13). -/
def Instr.isPrimitive : Instr → Bool
  | .addMod _ _ _ _ _ => true
  | .subMod _ _ _ _ _ => true
  | .mulMod _ _ _ _ _ => true
  | .modCopy _ _ _ _ => true
  | .copy _ _ _ => true
  | .modInverse _ _ _ _ => true
  | .addInverse _ _ _ _ => true
  | .loadImmediate _ _ _ => true
  | .tick _ => true
  | .modexp _ _ _ _ => false
  | .signNoncrt => false
  | .signCrtDirect => false
  | .signCrtShamir => false

/-- The `NC` bit of an instruction; 0 where the row fixes it at 0 (R105). -/
def Instr.noCount : Instr → Bool
  | .addMod nc _ _ _ _ => nc
  | .subMod nc _ _ _ _ => nc
  | .mulMod nc _ _ _ _ => nc
  | .modCopy nc _ _ _ => nc
  | .copy nc _ _ => nc
  | .modInverse nc _ _ _ => nc
  | .addInverse nc _ _ _ => nc
  | .loadImmediate nc _ _ => nc
  | .tick _ => false
  | .modexp _ _ _ _ => false
  | .signNoncrt => false
  | .signCrtDirect => false
  | .signCrtShamir => false

/-- R114: each micro-op of a macro is a primitive with `NC = 0`. -/
def Instr.isMicroOp (i : Instr) : Bool := i.isPrimitive && !i.noCount

/-- Whether the instruction is a `sign` of any mode; R73 treats it apart from every other instruction. -/
def Instr.isSign : Instr → Bool
  | .addMod _ _ _ _ _ => false
  | .subMod _ _ _ _ _ => false
  | .mulMod _ _ _ _ _ => false
  | .modCopy _ _ _ _ => false
  | .copy _ _ _ => false
  | .modInverse _ _ _ _ => false
  | .addInverse _ _ _ _ => false
  | .loadImmediate _ _ _ => false
  | .tick _ => false
  | .modexp _ _ _ _ => false
  | .signNoncrt => true
  | .signCrtDirect => true
  | .signCrtShamir => true

end Sys2Proof
end

