-- ==== Sys2Proof/Decode.lean ====
section
/-! DEFINITION. Decoding (spec 30_encoding.md R103, R108) and the encoder (R100, R102). Decoding is total: every
word is one row of R103 or illegal. -/

namespace Sys2Proof

/-- The rows of R103. -/
inductive Mnemonic where
  | addMod | subMod | mulMod | modCopy | copy | modInverse | addInverse | loadImmediate | tick | modexp
  | signNoncrt | signCrtDirect | signCrtShamir
  deriving DecidableEq, Repr

/-- One row of R103: a word `w` spells the row's instruction when `w AND mask = bits`. -/
structure EncodingRow where
  mnemonic : Mnemonic
  bits : InstrWord
  mask : InstrWord
  deriving DecidableEq, Repr

/-- The table of R103, in its order. -/
def encodingRows : List EncodingRow :=
  [⟨.addMod, 0x10000000#32, 0xF70000FF#32⟩,
   ⟨.subMod, 0x20000000#32, 0xF70000FF#32⟩,
   ⟨.mulMod, 0x30000000#32, 0xF70000FF#32⟩,
   ⟨.modCopy, 0x40000000#32, 0xF700F0FF#32⟩,
   ⟨.copy, 0x50000000#32, 0xF700FFFF#32⟩,
   ⟨.modInverse, 0x60000000#32, 0xF700F0FF#32⟩,
   ⟨.addInverse, 0x70000000#32, 0xF700F0FF#32⟩,
   ⟨.loadImmediate, 0x80000000#32, 0xF70FFFFF#32⟩,
   ⟨.tick, 0x90000000#32, 0xFF0FFFFF#32⟩,
   ⟨.modexp, 0xA0000000#32, 0xFF0000FF#32⟩,
   ⟨.signNoncrt, 0xB0000000#32, 0xFFFFFFFF#32⟩,
   ⟨.signCrtDirect, 0xB0000001#32, 0xFFFFFFFF#32⟩,
   ⟨.signCrtShamir, 0xB0000002#32, 0xFFFFFFFF#32⟩]

/-- Whether `w` spells the row's instruction (R103). -/
def EncodingRow.accepts (row : EncodingRow) (w : InstrWord) : Bool := w &&& row.mask == row.bits

/-- The register index in the four bits of `w` from bit `lo` up (R101). -/
def regField (w : InstrWord) (lo : Nat) : Reg := (w.extractLsb' lo 4).toFin

/-- The instruction of a row, its operands taken from the fields of R100 and, for `load_immediate`, from the
operand beside the word (R107, R108). -/
def assemble (m : Mnemonic) (w : InstrWord) (imm : Word) : Instr :=
  let nc := w.getLsbD 27
  let rd := regField w 20
  let ra := regField w 16
  let rb := regField w 12
  let rm := regField w 8
  match m with
  | .addMod => .addMod nc rd ra rb rm
  | .subMod => .subMod nc rd ra rb rm
  | .mulMod => .mulMod nc rd ra rb rm
  | .modCopy => .modCopy nc rd ra rm
  | .copy => .copy nc rd ra
  | .modInverse => .modInverse nc rd ra rm
  | .addInverse => .addInverse nc rd ra rm
  | .loadImmediate => .loadImmediate nc rd imm
  | .tick => .tick rd
  | .modexp => .modexp rd ra rb rm
  | .signNoncrt => .signNoncrt
  | .signCrtDirect => .signCrtDirect
  | .signCrtShamir => .signCrtShamir

/-- What decoding answers: an instruction, or the rejection that R108 names `ILLEGAL`. -/
inductive Decoded where
  | instr (i : Instr)
  | illegal
  deriving DecidableEq, Repr

/-- R108: the first row that the word matches, or ILLEGAL. `imm` is the operand delivered with the word (R73). -/
def decode (w : InstrWord) (imm : Word) : Decoded :=
  match encodingRows.find? (fun row => row.accepts w) with
  | some row => .instr (assemble row.mnemonic w imm)
  | none => .illegal

/-- R100: the word `OPC, NC, RES1, RD, RA, RB, RM, RES2, MODE`, the reserved fields 0. -/
def fieldWord (opc : BitVec 4) (nc : Bool) (rd ra rb rm : Reg) (mode : BitVec 2) : InstrWord :=
  opc ++ BitVec.ofBool nc ++ 0#3 ++ BitVec.ofFin (w := 4) rd ++ BitVec.ofFin (w := 4) ra
    ++ BitVec.ofFin (w := 4) rb ++ BitVec.ofFin (w := 4) rm ++ 0#6 ++ mode

/-- The word of an instruction, by R100 and the opcode assignment of R102. -/
def encodeWord : Instr → InstrWord
  | .addMod nc rd ra rb rm => fieldWord 0x1#4 nc rd ra rb rm 0#2
  | .subMod nc rd ra rb rm => fieldWord 0x2#4 nc rd ra rb rm 0#2
  | .mulMod nc rd ra rb rm => fieldWord 0x3#4 nc rd ra rb rm 0#2
  | .modCopy nc rd ra rm => fieldWord 0x4#4 nc rd ra 0 rm 0#2
  | .copy nc rd ra => fieldWord 0x5#4 nc rd ra 0 0 0#2
  | .modInverse nc rd ra rm => fieldWord 0x6#4 nc rd ra 0 rm 0#2
  | .addInverse nc rd ra rm => fieldWord 0x7#4 nc rd ra 0 rm 0#2
  | .loadImmediate nc rd _ => fieldWord 0x8#4 nc rd 0 0 0 0#2
  | .tick rd => fieldWord 0x9#4 false rd 0 0 0 0#2
  | .modexp rd ra rb rm => fieldWord 0xA#4 false rd ra rb rm 0#2
  | .signNoncrt => fieldWord 0xB#4 false 0 0 0 0 0#2
  | .signCrtDirect => fieldWord 0xB#4 false 0 0 0 0 1#2
  | .signCrtShamir => fieldWord 0xB#4 false 0 0 0 0 2#2

/-- The operand an instruction travels with: the value of `load_immediate`, 0 beside every other word, which
ignores it (R73, R107). -/
def encodeOperand : Instr → Word
  | .addMod _ _ _ _ _ => Word.ofNat 0
  | .subMod _ _ _ _ _ => Word.ofNat 0
  | .mulMod _ _ _ _ _ => Word.ofNat 0
  | .modCopy _ _ _ _ => Word.ofNat 0
  | .copy _ _ _ => Word.ofNat 0
  | .modInverse _ _ _ _ => Word.ofNat 0
  | .addInverse _ _ _ _ => Word.ofNat 0
  | .loadImmediate _ _ imm => imm
  | .tick _ => Word.ofNat 0
  | .modexp _ _ _ _ => Word.ofNat 0
  | .signNoncrt => Word.ofNat 0
  | .signCrtDirect => Word.ofNat 0
  | .signCrtShamir => Word.ofNat 0

/-- The word and the operand of an instruction: what one `ISSUE` delivers (R73). -/
def encode (i : Instr) : InstrWord × Word := (encodeWord i, encodeOperand i)

/-- The word in the low 32 of an instruction's bits. -/
def tableWord (nbits w : Nat) : InstrWord := BitVec.ofNat 32 (w % 2 ^ nbits)

/-- The operand in the 1024 bits above the word (notes/assumptions/8.md). -/
def tableOperand (nbits w : Nat) : Word := Word.ofNat (w % 2 ^ nbits / 2 ^ 32)

/-- The instruction the decoder reads from an instruction whose `nbits` bits are `w`: the word is bits 31..0, the
operand of `load_immediate` the 1024 bits above it, 0 where `nbits` leaves them out (notes/assumptions/8.md). -/
def decodeTableWord (nbits w : Nat) : Option Instr :=
  match decode (tableWord nbits w) (tableOperand nbits w) with
  | .instr i => some i
  | .illegal => none

end Sys2Proof
end

