-- ==== Sys2Proof/Machine/State.lean ====
section
/-! DEFINITION. The state of the engine (spec 10_state.md), the reasons a step can stop, and the state after reset
(spec 70_reset_and_hazards.md R291). -/

namespace Sys2Proof.Machine

/-- Why a step stops with a fault. The spec gives every command and every micro-op a next state (R250), so one
reason is left. -/
inductive Fault where
  /-- Raised by the sequencer where `seq` lies past the end of its macro's expansion. No run reaches it; the spec
  says nothing of it (notes/assumptions/6.md). Safe. -/
  | sequencerOutOfRange
  deriving DecidableEq, Repr

/-- Why an instruction is refused without a meaning. -/
inductive Refusal where
  /-- Raised by `exec` for an instruction that has no meaning in this model. No arm of `exec` answers it. Safe. -/
  | notModelled (mnemonic : String)
  deriving DecidableEq, Repr

/-- `STATUS.STATE` (R49). The codes 9 to 15 are never held and have no constructor. -/
inductive Phase where
  | init
  | loadOperands
  | expBranch1
  | expBranch2
  | consistencyCheck
  | combine
  | done
  | faultDetected
  | halted
  deriving DecidableEq, Repr

/-- `FAULT_CTRL.BRANCH` (R43). The reserved value 3 is never held. -/
inductive FaultBranch where
  | none
  | branchP
  | branchQ
  deriving DecidableEq, Repr

/-- The mode of a `sign` (R104) and `STATUS.SIGN_MODE` (R45). -/
inductive SignMode where
  | noncrt
  | crtDirect
  | crtShamir
  deriving DecidableEq, Repr

/-- The four error causes (R251). -/
inductive ErrorCause where
  | illegal
  | modZero
  | seq
  | csr
  deriving DecidableEq, Repr

/-- `FAULT_INFO` (R46): where the fault landed. -/
structure FaultInfo where
  bit : BitVec 10
  reg : Reg
  deriving DecidableEq, Repr

/-- `ERR_INFO` (R47): the first error of the invocation. `CAUSE = 0`, no error since reset, is `none`. -/
structure ErrInfo where
  cause : Option ErrorCause
  info : BitVec 32
  deriving DecidableEq, Repr

/-- `mctx` (R50): the context taken when a macro is issued, with the scan width `K` of that moment. -/
inductive MacroContext where
  | modexp (rd ra rb rm : Reg) (k : Nat)
  | sign (mode : SignMode) (k : Nat)
  deriving DecidableEq, Repr

/-- The hidden state of a running macro (R50): its context, and `seq`, the number of its micro-ops already run. -/
structure Running where
  mctx : MacroContext
  seq : Nat
  deriving DecidableEq, Repr

/-- The five commands of the host (R72). -/
inductive HostCommand where
  | reset
  | issue (word : InstrWord) (imm : Word)
  | csrRead (addr : CsrAddr)
  | csrWrite (addr : CsrAddr) (value : CsrWord)
  | regRead (r : Reg)
  deriving DecidableEq, Repr

/-- A command the host has yet to see accepted, and the number of engine steps after which it arrives
(R74, R86; notes/assumptions/1.md). -/
structure PendingCommand where
  wait : Nat
  command : HostCommand
  deriving DecidableEq, Repr

/-- What a read command returned (R75, R77; notes/assumptions/4.md). -/
inductive Reply where
  | csr (addr : CsrAddr) (value : CsrWord)
  | reg (r : Reg) (value : Word)
  deriving DecidableEq, Repr

/-- Everything the spec gives the engine. The CSR words are put together from these fields when read
(Flags.lean), so no reserved bit is stored. -/
structure State where
  /-- `x[0]` to `x[15]` (R30). -/
  regs : Vector Word 16
  /-- `CLOCK` (R41). -/
  clock : CsrWord
  /-- `FAULT_CYCLE` (R42). -/
  faultCycle : CsrWord
  /-- `FAULT_CTRL.BRANCH` (R43). -/
  faultBranch : FaultBranch
  /-- `CONFIG.BW` (R44). -/
  configBw : Bool
  /-- `CONFIG.XBIT` (R44). -/
  configXbit : Bool
  /-- `STATUS.STATE` (R49). -/
  phase : Phase
  /-- `STATUS.FAULT_FIRED` (R45, R51). -/
  faultFired : Bool
  /-- `STATUS.FAULT_DETECTED` (R45). -/
  faultDetected : Bool
  /-- `STATUS.NONINV` (R45). -/
  nonInv : Bool
  /-- `STATUS.ERR_ILLEGAL` (R45). -/
  errIllegal : Bool
  /-- `STATUS.ERR_MODZERO` (R45). -/
  errModZero : Bool
  /-- `STATUS.ERR_SEQ` (R45). -/
  errSeq : Bool
  /-- `STATUS.ERR_CSR` (R45). -/
  errCsr : Bool
  /-- `STATUS.SIGN_ACTIVE` (R45). -/
  signActive : Bool
  /-- `STATUS.SIGN_MODE` (R45). -/
  signMode : SignMode
  /-- `FAULT_INFO` (R46). -/
  faultInfo : FaultInfo
  /-- `ERR_INFO` (R47). -/
  errInfo : ErrInfo
  /-- `seq` and `mctx` (R50), present exactly while `STATUS.BUSY = 1` (notes/assumptions/2.md). -/
  running : Option Running
  /-- The host's commands not yet accepted, oldest first (notes/assumptions/1.md). -/
  pending : List PendingCommand
  /-- The MODEL's own: what the read commands returned, oldest first (notes/assumptions/4.md). -/
  replies : List Reply
  /-- The MODEL's own: how many fault bits have been drawn (notes/assumptions/5.md). -/
  draws : Nat
  deriving DecidableEq, Repr

/-- R291: the engine right after reset, no command pending. `draws` is a DESIGN CHOICE (notes/assumptions/5.md),
as are the empty `pending` and `replies` (notes/assumptions/1.md, notes/assumptions/4.md). -/
def State.reset : State where
  regs := Vector.replicate 16 (Word.ofNat 0)
  clock := 0#64
  faultCycle := 0#64
  faultBranch := .none
  configBw := false
  configXbit := false
  phase := .init
  faultFired := false
  faultDetected := false
  nonInv := false
  errIllegal := false
  errModZero := false
  errSeq := false
  errCsr := false
  signActive := false
  signMode := .noncrt
  faultInfo := ⟨0#10, 0⟩
  errInfo := ⟨none, 0#32⟩
  running := none
  pending := []
  replies := []
  draws := 0

end Sys2Proof.Machine
end

