-- ==== Sys2Proof/Machine/Arith.lean ====
section
/-! DEFINITION. The results of the modulus instructions on exact integers (spec 40_register_ops.md R140 to R146,
R150; 00_scope.md R8). Nothing wraps: a sum, difference or product is exact and is reduced once. -/

namespace Sys2Proof.Machine

/-- R140. -/
def addMod (a b m : Nat) : Nat := (a + b) % m

/-- R141: the difference is a signed integer, and `%` on `Int` with `m > 0` is the floored remainder of R8. -/
def subMod (a b m : Nat) : Nat := (((a : Int) - (b : Int)) % (m : Int)).toNat

/-- R142: the whole double-width product, reduced afterwards. -/
def mulMod (a b m : Nat) : Nat := a * b % m

/-- R143. -/
def modCopy (a m : Nat) : Nat := a % m

/-- R146: reduced, so that `a mod m = 0` gives 0 (spec 90_conflicts.md C5). -/
def addInverse (a m : Nat) : Nat := (m - a % m) % m

/-- Whether `a` has an inverse modulo `m` (R145). -/
def invertible (a m : Nat) : Bool := Nat.gcd (a % m) m == 1

/-- Euclid's algorithm on `r0`, `r1`, carrying the cofactors of one argument: where the cofactors start as 0 and 1
on `m` and `s`, the answer `t` has `s * t ≡ gcd s m` modulo `m`. `fuel` bounds the divisions; `r1` falls at each. -/
def euclidCofactor : (fuel : Nat) → (r0 r1 : Nat) → (t0 t1 : Int) → Int
  | 0, _, _, t0, _ => t0
  | fuel + 1, r0, r1, t0, t1 =>
    if r1 = 0 then t0 else euclidCofactor fuel r1 (r0 % r1) t1 (t0 - ((r0 / r1 : Nat) : Int) * t1)

/-- R145: the inverse of `a` modulo `m` in `[0, m)`, or 0 where none exists. R145 names it by its property; the
model computes it (DEDUCED, notes/assumptions/9.md). -/
def modInverse (a m : Nat) : Nat :=
  if invertible a m then (euclidCofactor (a % m + 1) m (a % m) 0 1 % (m : Int)).toNat else 0

end Sys2Proof.Machine
end

