-- ==== Sys2Proof/Machine/Operands.lean ====
section
/-! DEFINITION. Reading and writing registers, and the values the configuration gives (spec 10_state.md R30, R44;
00_scope.md R9 to R11). -/

namespace Sys2Proof.Machine

/-- `x[r]` (R10). No register is hard-wired (R30). -/
def State.reg (s : State) (r : Reg) : Word := s.regs[r]

/-- The value of `x[r]` as the integer that R8 computes with. -/
def State.val (s : State) (r : Reg) : Nat := (s.reg r).toNat

/-- `x[r] <- v` (R10, R30). -/
def State.setReg (s : State) (r : Reg) (v : Word) : State := { s with regs := s.regs.set r v }

/-- `x[r][i]` (R9): 0 above the top of the register. -/
def State.regBit (s : State) (r : Reg) (i : Nat) : Bool := (s.reg r).getLsbD i

/-- `L`, the configured bit-length (R44). -/
def State.bitLength (s : State) : Nat := if s.configBw then 1024 else 512

/-- `K = L + CONFIG.XBIT`, the number of exponent bits a macro scans (R44). -/
def State.scanWidth (s : State) : Nat := s.bitLength + (if s.configXbit then 1 else 0)

/-- `FaultDraw(L)` at this point of the run (R11, R137): a free value in `[0, L)` (notes/assumptions/5.md). -/
def State.faultDraw (s : State) : Nat := Config.faultDraw s.draws % s.bitLength

/-- `STATUS.BUSY` (R45): a macro runs exactly while `seq` and `mctx` are there (notes/assumptions/2.md). -/
def State.busy (s : State) : Bool := s.running.isSome

/-- The terminal states (R49). -/
def Phase.terminal : Phase → Bool
  | .init => false
  | .loadOperands => false
  | .expBranch1 => false
  | .expBranch2 => false
  | .consistencyCheck => false
  | .combine => false
  | .done => true
  | .faultDetected => true
  | .halted => true

/-- The states in which a CSR write is accepted (R76). -/
def Phase.acceptsCsrWrite : Phase → Bool
  | .init => true
  | .loadOperands => true
  | .expBranch1 => false
  | .expBranch2 => false
  | .consistencyCheck => false
  | .combine => false
  | .done => false
  | .faultDetected => false
  | .halted => false

end Sys2Proof.Machine
end

