-- ==== Sys2Proof/Machine/Flags.lean ====
section
/-! DEFINITION. The flags of `STATUS` and the words of the CSRs (spec 10_state.md R40 to R49, R52). -/

namespace Sys2Proof.Machine

/-- The code of a state in `STATUS[3:0]` (R49). -/
def Phase.code : Phase → BitVec 4
  | .init => 0#4
  | .loadOperands => 1#4
  | .expBranch1 => 2#4
  | .expBranch2 => 3#4
  | .consistencyCheck => 4#4
  | .combine => 5#4
  | .done => 6#4
  | .faultDetected => 7#4
  | .halted => 8#4

/-- The code of the selector in `FAULT_CTRL[1:0]` (R43). -/
def FaultBranch.code : FaultBranch → BitVec 2
  | .none => 0#2
  | .branchP => 1#2
  | .branchQ => 2#2

/-- The code of a mode in `STATUS[14:13]` and in the `MODE` field (R45, R104). -/
def SignMode.code : SignMode → BitVec 2
  | .noncrt => 0#2
  | .crtDirect => 1#2
  | .crtShamir => 2#2

/-- The code of a cause in `ERR_INFO[2:0]` (R47, R251). -/
def ErrorCause.code : ErrorCause → BitVec 3
  | .illegal => 1#3
  | .modZero => 2#3
  | .seq => 3#3
  | .csr => 4#3

/-- Whether the cause halts the engine or only refuses the command (R250, R251). -/
def ErrorCause.halts : ErrorCause → Bool
  | .illegal => true
  | .modZero => true
  | .seq => false
  | .csr => false

/-- The word of `STATUS` (R45), bits [63:15] 0. -/
def State.statusWord (s : State) : CsrWord :=
  0#49 ++ s.signMode.code ++ BitVec.ofBool s.signActive ++ BitVec.ofBool s.errCsr ++ BitVec.ofBool s.errSeq
    ++ BitVec.ofBool s.errModZero ++ BitVec.ofBool s.errIllegal ++ BitVec.ofBool s.nonInv
    ++ BitVec.ofBool s.faultDetected ++ BitVec.ofBool s.faultFired ++ BitVec.ofBool s.busy ++ s.phase.code

/-- The word of `FAULT_CTRL` (R43). -/
def State.faultCtrlWord (s : State) : CsrWord := 0#62 ++ s.faultBranch.code

/-- The word of `CONFIG` (R44). -/
def State.configWord (s : State) : CsrWord := 0#62 ++ BitVec.ofBool s.configXbit ++ BitVec.ofBool s.configBw

/-- The word of `FAULT_INFO` (R46). -/
def State.faultInfoWord (s : State) : CsrWord :=
  0#44 ++ BitVec.ofFin (w := 4) s.faultInfo.reg ++ 0#6 ++ s.faultInfo.bit

/-- The word of `ERR_INFO` (R47). -/
def State.errInfoWord (s : State) : CsrWord :=
  s.errInfo.info ++ 0#29 ++
    (match s.errInfo.cause with
    | some c => c.code
    | none => 0#3)

/-- The value a read of a CSR returns (R40, R75): 0 at the unimplemented addresses (R48). -/
def State.csrValue (s : State) (addr : CsrAddr) : CsrWord :=
  match addr.toNat with
  | 0 => s.clock
  | 1 => s.faultCycle
  | 2 => s.faultCtrlWord
  | 3 => s.configWord
  | 4 => s.statusWord
  | 5 => s.faultInfoWord
  | 6 => s.errInfoWord
  | _ => 0#64

/-- `STATUS.STATE <- p`. -/
def State.enterPhase (s : State) (p : Phase) : State := { s with phase := p }

/-- `STATUS.NONINV <- 1` (R145). Sticky. -/
def State.markNonInv (s : State) : State := { s with nonInv := true }

/-- `STATUS.FAULT_DETECTED <- 1` (R221). Sticky. -/
def State.markFaultDetected (s : State) : State := { s with faultDetected := true }

/-- `STATUS.SIGN_ACTIVE <- 1; STATUS.SIGN_MODE <- MODE` (R210). -/
def State.markSign (s : State) (mode : SignMode) : State := { s with signActive := true, signMode := mode }

/-- `STATUS.ERR_<cause> <- 1` (R252). Sticky. -/
def State.markError (s : State) : ErrorCause → State
  | .illegal => { s with errIllegal := true }
  | .modZero => { s with errModZero := true }
  | .seq => { s with errSeq := true }
  | .csr => { s with errCsr := true }

/-- `ERR_INFO` takes the cause and its datum while it holds none: the first error wins (R47, R252). -/
def State.recordError (s : State) (cause : ErrorCause) (info : BitVec 32) : State :=
  match s.errInfo.cause with
  | none => { s with errInfo := ⟨some cause, info⟩ }
  | some _ => s

end Sys2Proof.Machine
end

