-- ==== Sys2Proof/Machine/Ops.lean ====
section
/-! DEFINITION. The shared operations: taking an error and the reset that leaves it, cycle completion with the
fault_injection_controller, and the execution of one primitive (spec 60_exceptions.md R252; 70_reset_and_hazards.md
R290; 40_register_ops.md R131 to R139). -/

namespace Sys2Proof.Machine

/-- A macro begins (R191, R210): `BUSY <- 1`, `mctx` taken, `seq` at the first micro-op. -/
def State.startRunning (s : State) (ctx : MacroContext) : State := { s with running := some ⟨ctx, 0⟩ }

/-- `seq` moves to the given position of the running macro's expansion (R130). -/
def State.continueAt (s : State) (ctx : MacroContext) (seq : Nat) : State := { s with running := some ⟨ctx, seq⟩ }

/-- A macro ends (R191, R213): `BUSY <- 0`, with which `seq` and `mctx` are gone (notes/assumptions/2.md). -/
def State.stopRunning (s : State) : State := { s with running := none }

/-- R252, TAKING AN ERROR: the sticky bit, the first error's record, and for `ILLEGAL` and `MODZERO` the halt, which
abandons a running macro. There is no handler and no saved state (R261). -/
def State.raiseError (s : State) (cause : ErrorCause) (info : BitVec 32) : State :=
  let recorded := (s.markError cause).recordError cause info
  if cause.halts then (recorded.enterPhase .halted).stopRunning else recorded

/-- R290, R291, the only way back from a terminal state (R262): every element the spec gives the engine takes its
reset value. The host's commands and the model's own records are not the engine's and stay
(notes/assumptions/10.md). -/
def State.resetEngine (s : State) : State :=
  { State.reset with pending := s.pending, replies := s.replies, draws := s.draws }

/-- `CSR.CLOCK <- (CSR.CLOCK + 1) mod 2^64` (R134). -/
def State.advanceClock (s : State) : State := { s with clock := s.clock + 1#64 }

/-- R136: whether the branch selector restricts the fault, which it does only during a CRT-mode `sign`. -/
def State.gateRestricted (s : State) : Bool :=
  s.busy && s.signActive && (s.signMode == .crtDirect || s.signMode == .crtShamir)

/-- R136, the branch gate. -/
def State.gateOpen (s : State) : Bool :=
  !s.gateRestricted
    || (s.faultBranch == .branchP && s.phase == .expBranch1)
    || (s.faultBranch == .branchQ && s.phase == .expBranch2)

/-- R135, the fire condition, to be read on the clock already advanced. -/
def State.fires (s : State) : Bool :=
  s.faultCycle != 0#64 && s.clock == s.faultCycle && !s.faultFired && s.gateOpen

/-- R137 for the drawn bit `b`: flip it in `x[rd]`, record the place, close the one-shot guard. -/
def State.injectBit (s : State) (rd : Reg) (b : Nat) : State :=
  { s.setReg rd (s.reg rd ^^^ Word.ofNat (2 ^ b)) with
    faultFired := true
    faultInfo := ⟨BitVec.ofNat 10 b, rd⟩
    draws := s.draws + 1 }

/-- R137: the bit is the draw of this moment. -/
def State.inject (s : State) (rd : Reg) : State := s.injectBit rd s.faultDraw

/-- R134, cycle completion on the destination register. -/
def State.completeCycle (s : State) (rd : Reg) : State :=
  if s.advanceClock.fires then s.advanceClock.inject rd else s.advanceClock

/-- The end of every primitive (R131): write the destination, then complete the cycle unless `NC = 1` (R139). -/
def State.retire (s : State) (nc : Bool) (rd : Reg) (v : Word) : State :=
  if nc then s.setReg rd v else (s.setReg rd v).completeCycle rd

/-- A primitive with a modulus (R131, R133): `MODZERO` with the instruction's word where `x[rm] = 0`, else the
result of the modulus, written and completed. -/
def State.modular (s : State) (i : Instr) (nc : Bool) (rd rm : Reg) (result : Nat → Nat) : State :=
  if s.val rm = 0 then s.raiseError .modZero (encodeWord i)
  else s.retire nc rd (Word.ofNat (result (s.val rm)))

end Sys2Proof.Machine
end

