-- ==== Sys2Proof/Machine/ModExp.lean ====
section
/-! DEFINITION. `modexp` (spec 41_modexp.md R190 to R193): its issue, and the micro-ops of its expansion. -/

namespace Sys2Proof.Machine

/-- R191: the accepting step takes the context with the scan width of this moment and runs no micro-op yet. -/
def execModexp (rd ra rb rm : Reg) (s : State) : Host.Outcome State Fault Refusal :=
  .next (s.startRunning (.modexp rd ra rb rm s.scanWidth))

/-- The number of micro-ops of one exponentiation (R195). -/
def expLength (k : Nat) : Nat := 1 + 2 * k

/-- The loop index `i` of the exponentiation's micro-op number `off`, for `off > 0` (R192): the loop runs from
`k - 1` down, two micro-ops a round (notes/assumptions/3.md). -/
def loopIndex (k off : Nat) : Nat := k - 1 - (off - 1) / 2

/-- R192, R193: micro-op number `off` of `expand_modexp(rd, ra, rb, rm, k)`. The exponent bit is read in the step
of the multiply, from the register's value at that moment. -/
def expMicroOp (rd ra rb rm : Reg) (k off : Nat) (s : State) : Instr :=
  if off = 0 then .copy false rd Reg.ONE
  else if off % 2 = 1 then .mulMod false rd rd rd rm
  else .mulMod false rd rd (if s.regBit rb (loopIndex k off) then ra else Reg.ONE) rm

end Sys2Proof.Machine
end

