-- ==== Sys2Proof/Machine/Register.lean ====
section
/-! DEFINITION. The nine primitives (spec 40_register_ops.md R140 to R148). Every operand is read before the write
(R132), so any two fields may name one register. -/

namespace Sys2Proof.Machine

/-- R140. -/
def execAddMod (nc : Bool) (rd ra rb rm : Reg) (s : State) : Host.Outcome State Fault Refusal :=
  .next (s.modular (.addMod nc rd ra rb rm) nc rd rm (addMod (s.val ra) (s.val rb)))

/-- R141. -/
def execSubMod (nc : Bool) (rd ra rb rm : Reg) (s : State) : Host.Outcome State Fault Refusal :=
  .next (s.modular (.subMod nc rd ra rb rm) nc rd rm (subMod (s.val ra) (s.val rb)))

/-- R142. -/
def execMulMod (nc : Bool) (rd ra rb rm : Reg) (s : State) : Host.Outcome State Fault Refusal :=
  .next (s.modular (.mulMod nc rd ra rb rm) nc rd rm (mulMod (s.val ra) (s.val rb)))

/-- R143. -/
def execModCopy (nc : Bool) (rd ra rm : Reg) (s : State) : Host.Outcome State Fault Refusal :=
  .next (s.modular (.modCopy nc rd ra rm) nc rd rm (modCopy (s.val ra)))

/-- R144: no modulus, no reduction, no error. -/
def execCopy (nc : Bool) (rd ra : Reg) (s : State) : Host.Outcome State Fault Refusal :=
  .next (s.retire nc rd (s.reg ra))

/-- `s` with `NONINV` set where `x[ra]` has no inverse modulo `x[rm]`. For `x[rm] = 0` nothing is set: the
instruction does not execute (R133). -/
def State.noteInverse (s : State) (ra rm : Reg) : State :=
  if s.val rm = 0 || invertible (s.val ra) (s.val rm) then s else s.markNonInv

/-- R145: without an inverse the result is 0 and `NONINV` is set, before the cycle completes (R259). -/
def execModInverse (nc : Bool) (rd ra rm : Reg) (s : State) : Host.Outcome State Fault Refusal :=
  .next ((s.noteInverse ra rm).modular (.modInverse nc rd ra rm) nc rd rm (modInverse (s.val ra)))

/-- R146. -/
def execAddInverse (nc : Bool) (rd ra rm : Reg) (s : State) : Host.Outcome State Fault Refusal :=
  .next (s.modular (.addInverse nc rd ra rm) nc rd rm (addInverse (s.val ra)))

/-- R147: the operand of the ISSUE command, verbatim. -/
def execLoadImmediate (nc : Bool) (rd : Reg) (imm : Word) (s : State) : Host.Outcome State Fault Refusal :=
  .next (s.retire nc rd imm)

/-- R148: the register keeps its value, and the cycle completes on it. -/
def execTick (rd : Reg) (s : State) : Host.Outcome State Fault Refusal :=
  .next (s.retire false rd (s.reg rd))

end Sys2Proof.Machine
end

