-- ==== Sys2Proof/Machine/Sign.lean ====
section
/-! DEFINITION. `sign` and the crt_recombine_unit (spec 42_sign_crt.md R210 to R222): the issue of each mode, and
the listings of their micro-ops. -/

namespace Sys2Proof.Machine

/-- R210, the issue of every mode; no micro-op runs yet. -/
def State.startSign (s : State) (mode : SignMode) : State :=
  (s.markSign mode).startRunning (.sign mode s.scanWidth)

/-- R210 with MODE 0. -/
def execSignNoncrt (s : State) : Host.Outcome State Fault Refusal := .next (s.startSign .noncrt)

/-- R210 with MODE 1. -/
def execSignCrtDirect (s : State) : Host.Outcome State Fault Refusal := .next (s.startSign .crtDirect)

/-- R210 with MODE 2. -/
def execSignCrtShamir (s : State) : Host.Outcome State Fault Refusal := .next (s.startSign .crtShamir)

/-- R215, `prep_direct`. -/
def prepDirect : List Instr :=
  [.subMod false Reg.SCRATCH1 Reg.P Reg.ONE Reg.N,
   .modCopy false Reg.A Reg.D Reg.SCRATCH1,
   .subMod false Reg.SCRATCH1 Reg.Q Reg.ONE Reg.N,
   .modCopy false Reg.B Reg.D Reg.SCRATCH1]

/-- R219, `prep_shamir`. -/
def prepShamir : List Instr :=
  [.mulMod false Reg.X Reg.P Reg.T Reg.N,
   .mulMod false Reg.Y Reg.Q Reg.T Reg.N,
   .subMod false Reg.SCRATCH1 Reg.P Reg.ONE Reg.N,
   .subMod false Reg.SCRATCH2 Reg.T Reg.ONE Reg.N,
   .mulMod false Reg.SCRATCH1 Reg.SCRATCH1 Reg.SCRATCH2 Reg.N,
   .modCopy false Reg.A Reg.D Reg.SCRATCH1,
   .subMod false Reg.SCRATCH1 Reg.Q Reg.ONE Reg.N,
   .mulMod false Reg.SCRATCH1 Reg.SCRATCH1 Reg.SCRATCH2 Reg.N,
   .modCopy false Reg.B Reg.D Reg.SCRATCH1]

/-- R220, `check`. -/
def checkOps : List Instr :=
  [.modCopy false Reg.SCRATCH1 Reg.POW Reg.T,
   .modCopy false Reg.SCRATCH2 Reg.POW2 Reg.T]

/-- R222, `derive`. -/
def deriveOps : List Instr :=
  [.modCopy false Reg.POW Reg.POW Reg.P,
   .modCopy false Reg.POW2 Reg.POW2 Reg.Q]

/-- R217, `combine`. -/
def combineOps : List Instr :=
  [.modInverse false Reg.X Reg.P Reg.Q,
   .modInverse false Reg.Y Reg.Q Reg.P,
   .mulMod false Reg.SCRATCH1 Reg.POW2 Reg.X Reg.N,
   .mulMod false Reg.SCRATCH1 Reg.SCRATCH1 Reg.P Reg.N,
   .mulMod false Reg.SCRATCH2 Reg.POW Reg.Y Reg.N,
   .mulMod false Reg.SCRATCH2 Reg.SCRATCH2 Reg.Q Reg.N,
   .addMod false Reg.C Reg.SCRATCH1 Reg.SCRATCH2 Reg.N]

end Sys2Proof.Machine
end

