-- ==== Sys2Proof/Machine/Dispatch.lean ====
section
/-! DEFINITION. The meaning of every instruction, one arm per constructor of `Instr`. -/

namespace Sys2Proof.Machine

/-- One instruction's effect once the ISSUE port has accepted it, or as a micro-op (spec R73, R130, R131). -/
def exec (i : Instr) (s : State) : Host.Outcome State Fault Refusal :=
  match i with
  | .addMod nc rd ra rb rm => Sys2Proof.Machine.execAddMod nc rd ra rb rm s
  | .subMod nc rd ra rb rm => Sys2Proof.Machine.execSubMod nc rd ra rb rm s
  | .mulMod nc rd ra rb rm => Sys2Proof.Machine.execMulMod nc rd ra rb rm s
  | .modCopy nc rd ra rm => Sys2Proof.Machine.execModCopy nc rd ra rm s
  | .copy nc rd ra => Sys2Proof.Machine.execCopy nc rd ra s
  | .modInverse nc rd ra rm => Sys2Proof.Machine.execModInverse nc rd ra rm s
  | .addInverse nc rd ra rm => Sys2Proof.Machine.execAddInverse nc rd ra rm s
  | .loadImmediate nc rd imm => Sys2Proof.Machine.execLoadImmediate nc rd imm s
  | .tick rd => Sys2Proof.Machine.execTick rd s
  | .modexp rd ra rb rm => Sys2Proof.Machine.execModexp rd ra rb rm s
  | .signNoncrt => Sys2Proof.Machine.execSignNoncrt s
  | .signCrtDirect => Sys2Proof.Machine.execSignCrtDirect s
  | .signCrtShamir => Sys2Proof.Machine.execSignCrtShamir s

end Sys2Proof.Machine
end

