-- ==== Sys2Proof/Machine/Sequencer.lean ====
section
/-! DEFINITION. The micro-sequencer: the expansion of each macro and one engine step (spec 40_register_ops.md R130;
41_modexp.md R191, R192, R197; 42_sign_crt.md R213 to R224). -/

namespace Sys2Proof.Machine

/-- The body of a stage: a listing of micro-ops, or the `1 + 2K` micro-ops of `EXP(rd, ra, rb, rm)`. -/
inductive StageBody where
  | ops (listing : List Instr)
  | exp (rd ra rb rm : Reg)
  deriving DecidableEq, Repr

/-- One stage of a macro: the `STATE <- s` that its first micro-op's step begins with, where it has one, its
micro-ops, and whether its last step ends with the compare of R220. -/
structure Stage where
  enters : Option Phase
  body : StageBody
  compares : Bool
  deriving DecidableEq, Repr

/-- The stages of a macro, in order: R191, R192 for `modexp`; R213, R214 and R218 for the modes of `sign`. -/
def stages : MacroContext → List Stage
  | .modexp rd ra rb rm _ => [⟨none, .exp rd ra rb rm, false⟩]
  | .sign .noncrt _ => [⟨some .expBranch1, .exp Reg.C Reg.M Reg.D Reg.N, false⟩]
  | .sign .crtDirect _ =>
    [⟨some .loadOperands, .ops prepDirect, false⟩,
     ⟨some .expBranch1, .exp Reg.POW Reg.M Reg.A Reg.P, false⟩,
     ⟨some .expBranch2, .exp Reg.POW2 Reg.M Reg.B Reg.Q, false⟩,
     ⟨some .combine, .ops combineOps, false⟩]
  | .sign .crtShamir _ =>
    [⟨some .loadOperands, .ops prepShamir, false⟩,
     ⟨some .expBranch1, .exp Reg.POW Reg.M Reg.A Reg.X, false⟩,
     ⟨some .expBranch2, .exp Reg.POW2 Reg.M Reg.B Reg.Y, false⟩,
     ⟨some .consistencyCheck, .ops checkOps, true⟩,
     ⟨some .combine, .ops (deriveOps ++ combineOps), false⟩]

/-- The scan width `K` that a macro took at its issue (R50). -/
def MacroContext.width : MacroContext → Nat
  | .modexp _ _ _ _ k => k
  | .sign _ k => k

/-- How many micro-ops a stage has. -/
def StageBody.length (k : Nat) : StageBody → Nat
  | .ops listing => listing.length
  | .exp _ _ _ _ => expLength k

/-- How many micro-ops a macro has when no error and no detection ends it early (R195, R225). -/
def MacroContext.total (ctx : MacroContext) : Nat :=
  ((stages ctx).map (fun g => g.body.length ctx.width)).sum

/-- The stage that holds micro-op number `n` of a list of stages, and the micro-op's number inside it. -/
def locate (k : Nat) : List Stage → Nat → Option (Stage × Nat)
  | [], _ => none
  | g :: rest, n =>
    if n < g.body.length k then some (g, n) else locate k rest (n - g.body.length k)

/-- Micro-op number `off` of a stage; the exponent bit it depends on is read from `s` (R193). -/
def StageBody.microOp (k off : Nat) (s : State) : StageBody → Option Instr
  | .ops listing => listing[off]?
  | .exp rd ra rb rm => some (expMicroOp rd ra rb rm k off s)

/-- The `STATE <- s` of a stage takes effect at the start of the step of its first micro-op (42_sign_crt.md
section 2), so that the fault gate of that micro-op sees it. -/
def State.enterStage (s : State) (g : Stage) (off : Nat) : State :=
  match g.enters with
  | some p => if off = 0 then s.enterPhase p else s
  | none => s

/-- R221: a mismatch ends the `sign` in the terminal state FAULT_DETECTED; no signature is written. -/
def State.detectFault (s : State) : State := (s.markFaultDetected.enterPhase .faultDetected).stopRunning

/-- The end of a macro's last micro-op: `BUSY <- 0` (R191), and for `sign` `STATE <- DONE` (R213, R214, R218). -/
def State.finish (s : State) : MacroContext → State
  | .modexp _ _ _ _ _ => s.stopRunning
  | .sign _ _ => (s.enterPhase .done).stopRunning

/-- The sequencer's actions at the end of a step: none where the micro-op raised an error, which ended the macro
(R197, R228); else the compare of R220, the end of the macro, or the next position. -/
def State.afterMicroOp (t : State) (r : Running) (g : Stage) (off : Nat) : State :=
  if t.running = none then t
  else if g.compares && off + 1 == g.body.length r.mctx.width && t.reg Reg.SCRATCH1 != t.reg Reg.SCRATCH2 then
    t.detectFault
  else if r.seq + 1 = r.mctx.total then t.finish r.mctx
  else t.continueAt r.mctx (r.seq + 1)

/-- Micro-op number `off` of the stage `g` of the running macro `r`, executed as the same primitive issued alone
(R13, R130), with the sequencer's actions before and after it. -/
def runMicroOp (r : Running) (g : Stage) (off : Nat) (s : State) : Host.Outcome State Fault Refusal :=
  match g.body.microOp r.mctx.width off (s.enterStage g off) with
  | none => .fault .sequencerOutOfRange
  | some i =>
    match exec i (s.enterStage g off) with
    | .next t => .next (t.afterMicroOp r g off)
    | .fault f => .fault f
    | .refused q => .refused q

/-- R130, one engine step: exactly one micro-op of the running macro. With `BUSY = 0` the engine has no step and
keeps its state (R273, notes/assumptions/10.md). -/
def engineStep (s : State) : Host.Outcome State Fault Refusal :=
  match s.running with
  | none => .next s
  | some r =>
    match locate r.mctx.width (stages r.mctx) r.seq with
    | none => .fault .sequencerOutOfRange
    | some (g, off) => runMicroOp r g off s

end Sys2Proof.Machine
end

