-- ==== Sys2Proof/Machine/HostPort.lean ====
section
/-! DEFINITION. The host interface (spec 20_memory.md R72 to R77, R86): the five commands, and which of the two
agents moves next. -/

namespace Sys2Proof.Machine

/-- R73: the first accepted instruction that is no `sign` moves `INIT` to `LOAD_OPERANDS`. -/
def State.beginInstruction (s : State) (i : Instr) : State :=
  if !i.isSign && s.phase == .init then s.enterPhase .loadOperands else s

/-- R73, `ISSUE(word, imm)`: refused in a terminal state, halting on an illegal word, else executed. -/
def acceptIssue (word : InstrWord) (imm : Word) (s : State) : Host.Outcome State Fault Refusal :=
  if s.phase.terminal then .next (s.raiseError .seq word)
  else
    match decode word imm with
    | .illegal => .next (s.raiseError .illegal word)
    | .instr i => exec i (s.beginInstruction i)

/-- `CSR.FAULT_CYCLE <- value` (R76). -/
def State.setFaultCycle (s : State) (value : CsrWord) : State := { s with faultCycle := value }

/-- `CSR.FAULT_CTRL.BRANCH <- branch` (R76). -/
def State.setFaultBranch (s : State) (branch : FaultBranch) : State := { s with faultBranch := branch }

/-- `CSR.CONFIG.BW <- bw; CSR.CONFIG.XBIT <- xbit` (R76). -/
def State.setConfig (s : State) (bw xbit : Bool) : State := { s with configBw := bw, configXbit := xbit }

/-- The selector that a value written to `FAULT_CTRL` names; none for a reserved value (R43, R76). -/
def faultBranchOf (value : CsrWord) : Option FaultBranch :=
  match value.toNat with
  | 0 => some .none
  | 1 => some .branchP
  | 2 => some .branchQ
  | _ => none

/-- R76, `CSR_WRITE(addr, value)`: `SEQ` outside INIT and LOAD_OPERANDS, then `CSR` for a read-only or
unimplemented address or a reserved value, else the write. -/
def State.acceptCsrWrite (s : State) (addr : CsrAddr) (value : CsrWord) : State :=
  if s.phase.acceptsCsrWrite then
    match addr.toNat with
    | 1 => s.setFaultCycle value
    | 2 =>
      match faultBranchOf value with
      | some branch => s.setFaultBranch branch
      | none => s.raiseError .csr (addr.setWidth 32)
    | 3 =>
      if value.toNat < 4 then s.setConfig (value.getLsbD 0) (value.getLsbD 1)
      else s.raiseError .csr (addr.setWidth 32)
    | _ => s.raiseError .csr (addr.setWidth 32)
  else s.raiseError .seq (addr.setWidth 32)

/-- A read command's value reaches the host (R75, R77; notes/assumptions/4.md). -/
def State.pushReply (s : State) (reply : Reply) : State := { s with replies := s.replies ++ [reply] }

/-- The host's remaining commands. -/
def State.setPending (s : State) (l : List PendingCommand) : State := { s with pending := l }

/-- R74: `ISSUE` and `CSR_WRITE` are held while `BUSY = 1`; the reads and `RESET` never are. -/
def HostCommand.held : HostCommand → Bool
  | .reset => false
  | .issue _ _ => true
  | .csrRead _ => false
  | .csrWrite _ _ => true
  | .regRead _ => false

/-- One accepted host command (R72), the host step of R130. -/
def acceptCommand (c : HostCommand) (s : State) : Host.Outcome State Fault Refusal :=
  match c with
  | .reset => .next s.resetEngine
  | .issue word imm => acceptIssue word imm s
  | .csrRead addr => .next (s.pushReply (.csr addr (s.csrValue addr)))
  | .csrWrite addr value => .next (s.acceptCsrWrite addr value)
  | .regRead r => .next (s.pushReply (.reg r (s.reg r)))

/-- One step of the engine and its host (R85, R130). While a macro runs, the engine steps until the oldest command
has arrived, and for a held command until `BUSY = 0`; else the command is accepted (notes/assumptions/1.md). -/
def nextMove (s : State) : Host.Outcome State Fault Refusal :=
  match s.pending with
  | [] => engineStep s
  | c :: rest =>
    if s.busy && (c.wait != 0 || c.command.held) then
      engineStep (s.setPending ({ c with wait := c.wait - 1 } :: rest))
    else acceptCommand c.command (s.setPending rest)

end Sys2Proof.Machine
end

