-- ==== Sys2Proof/Machine/Step.lean ====
section
/-! DEFINITION. The step of the machine, and the state in which it runs a given instruction next. -/

namespace Sys2Proof.Machine

/-- One step: the next of the host's commands, or one engine step (spec R130). -/
def step (s : State) : Host.Outcome State Fault Refusal := nextMove s

/-- `s` with an `ISSUE` of the given bits as the host's next command. A running macro is dropped and a terminal
state left for LOAD_OPERANDS, which the ISSUE port needs to accept the word (R73, R74); from reset neither
changes anything (notes/assumptions/12.md). -/
def State.withFetchWord (s : State) (nbits w : Nat) : State :=
  { s with
    running := none
    phase := if s.phase.terminal then .loadOperands else s.phase
    pending := ⟨0, .issue (tableWord nbits w) (tableOperand nbits w)⟩ :: s.pending }

end Sys2Proof.Machine
end

