-- ==== Sys2Proof/Safety.lean ====
section
/-! DEFINITION. What counts as a safe run, in the terms the statements use: what a completed primitive and a taken
error leave behind (with all that they leave unchanged), when the fault is due, and which states are consistent. -/

namespace Sys2Proof.Machine

/-- R136 as the spec words it: during a CRT-mode `sign` the fault needs its branch's state. -/
def FaultGate (s : State) : Prop :=
  s.busy = true → s.signActive = true → s.signMode ≠ .noncrt →
    (s.faultBranch = .branchP ∧ s.phase = .expBranch1) ∨ (s.faultBranch = .branchQ ∧ s.phase = .expBranch2)

/-- R135 read before the cycle completes: the completion will bring `CLOCK` to a nonzero `FAULT_CYCLE`, no fault has
fired since reset, and the gate is open. -/
def FaultDue (s : State) : Prop :=
  s.faultCycle ≠ 0#64 ∧ s.clock + 1#64 = s.faultCycle ∧ s.faultFired = false ∧ FaultGate s

/-- The host-written CSRs are the same. -/
def SameConfig (s t : State) : Prop :=
  t.faultCycle = s.faultCycle ∧ t.faultBranch = s.faultBranch ∧ t.configBw = s.configBw ∧
    t.configXbit = s.configXbit

/-- The error flags and the error record are the same. -/
def SameErrors (s t : State) : Prop :=
  t.errIllegal = s.errIllegal ∧ t.errModZero = s.errModZero ∧ t.errSeq = s.errSeq ∧ t.errCsr = s.errCsr ∧
    t.errInfo = s.errInfo

/-- The fault controller's record is the same. -/
def SameFaultRecord (s t : State) : Prop := t.faultFired = s.faultFired ∧ t.faultInfo = s.faultInfo

/-- The signing flags are the same. -/
def SameSigning (s t : State) : Prop :=
  t.signActive = s.signActive ∧ t.signMode = s.signMode ∧ t.faultDetected = s.faultDetected

/-- The control position is the same: `STATE`, `BUSY` with `seq` and `mctx`, and the host's side. -/
def SameControl (s t : State) : Prop :=
  t.phase = s.phase ∧ t.running = s.running ∧ t.pending = s.pending ∧ t.replies = s.replies

/-- Every register is the same. -/
def SameRegs (s t : State) : Prop := ∀ r : Reg, t.reg r = s.reg r

/-- Every element the spec gives the engine is the same; the host's list and the model's own records may differ. -/
def SameEngine (s t : State) : Prop :=
  SameRegs s t ∧ t.clock = s.clock ∧ t.nonInv = s.nonInv ∧ SameConfig s t ∧ SameErrors s t ∧
    SameFaultRecord s t ∧ SameSigning s t ∧ t.phase = s.phase ∧ t.running = s.running

/-- A primitive with result `v` has completed on `rd` (R131, R134 to R137, R139). Its frame: every other register,
the configuration, the errors, the signing flags and the control position are unchanged. `NONINV` is left to the
statement that uses this. -/
structure Retired (s t : State) (nc : Bool) (rd : Reg) (v : Nat) : Prop where
  others : ∀ r : Reg, r ≠ rd → t.reg r = s.reg r
  config : SameConfig s t
  errors : SameErrors s t
  signing : SameSigning s t
  control : SameControl s t
  uncounted : nc = true → t.val rd = v ∧ t.clock = s.clock ∧ SameFaultRecord s t
  counted : nc = false → t.clock = s.clock + 1#64
  quiet : nc = false → ¬ FaultDue s → t.val rd = v ∧ SameFaultRecord s t
  faulted : nc = false → FaultDue s → t.faultFired = true ∧
    ∃ b : Nat, b < s.bitLength ∧ t.val rd = v ^^^ 2 ^ b ∧ t.faultInfo = ⟨BitVec.ofNat 10 b, rd⟩

/-- An error has been taken as R252 says, and nothing else has changed: no register, no `NONINV`, no `CLOCK`, no
fault (R252, R260). -/
structure ErrorTaken (s t : State) (cause : ErrorCause) (info : BitVec 32) : Prop where
  illegalBit : t.errIllegal = (s.errIllegal || cause == .illegal)
  modZeroBit : t.errModZero = (s.errModZero || cause == .modZero)
  seqBit : t.errSeq = (s.errSeq || cause == .seq)
  csrBit : t.errCsr = (s.errCsr || cause == .csr)
  first : s.errInfo.cause = none → t.errInfo = ⟨some cause, info⟩
  later : s.errInfo.cause ≠ none → t.errInfo = s.errInfo
  halt : cause = .illegal ∨ cause = .modZero → t.phase = .halted ∧ t.running = none
  refusal : cause = .seq ∨ cause = .csr → t.phase = s.phase ∧ t.running = s.running
  regs : SameRegs s t
  clock : t.clock = s.clock
  nonInv : t.nonInv = s.nonInv
  config : SameConfig s t
  fault : SameFaultRecord s t
  signing : SameSigning s t
  host : t.pending = s.pending ∧ t.replies = s.replies

/-- The scan widths that `CONFIG` can give (R44, R195). -/
def LegalWidth (k : Nat) : Prop := k = 512 ∨ k = 513 ∨ k = 1024 ∨ k = 1025

/-- `STATE` and the signing flags agree with the running macro (R191, R210, R223): a `modexp` runs in LOAD_OPERANDS
outside any `sign`; a `sign` shows the state of the stage of its last completed micro-op, and before its first one
the state it was issued in. -/
def PhaseAgrees (s : State) (r : Running) : Prop :=
  match r.mctx with
  | .modexp _ _ _ _ _ => s.phase = .loadOperands ∧ s.signActive = false
  | .sign mode k =>
    s.signActive = true ∧ s.signMode = mode ∧
      (r.seq = 0 → s.phase = .init ∨ s.phase = .loadOperands) ∧
      (r.seq ≠ 0 → ∃ g off, locate k (stages r.mctx) (r.seq - 1) = some (g, off) ∧ g.enters = some s.phase)

/-- The states a run can reach obey these. -/
structure Consistent (s : State) : Prop where
  /-- A running macro's position lies inside its expansion, with a width of `CONFIG` and the state of its stage. -/
  running : ∀ r, s.running = some r → r.seq < r.mctx.total ∧ LegalWidth r.mctx.width ∧ PhaseAgrees s r
  /-- Between macros `STATE` is INIT, LOAD_OPERANDS or terminal. -/
  idle : s.running = none → s.phase = .init ∨ s.phase = .loadOperands ∨ s.phase.terminal = true
  /-- At most one `sign` an invocation: once issued, it runs or the state is terminal (R210). -/
  signed : s.signActive = true → s.phase.terminal = true ∨ ∃ mode k n, s.running = some ⟨.sign mode k, n⟩
  /-- DONE is the end of a `sign`. -/
  done : s.phase = .done → s.signActive = true
  /-- The state FAULT_DETECTED and the flag stand together (R221). -/
  detected : s.phase = .faultDetected ↔ s.faultDetected = true
  /-- HALTED stands with exactly the halting errors (R250, R252). -/
  halted : s.phase = .halted ↔ (s.errIllegal = true ∨ s.errModZero = true)
  /-- `ERR_INFO` is empty exactly while no error bit is set (R252). -/
  noError : s.errInfo.cause = none ↔
    (s.errIllegal = false ∧ s.errModZero = false ∧ s.errSeq = false ∧ s.errCsr = false)
  /-- `FAULT_INFO` holds its reset value until the fault fires (R46). -/
  noFault : s.faultFired = false → s.faultInfo = ⟨0#10, 0⟩
  /-- In INIT nothing has executed since reset (R49). -/
  fresh : s.phase = .init → SameRegs State.reset s ∧ s.clock = 0#64 ∧ s.nonInv = false ∧ s.faultFired = false

/-- The host gives no command, so that a running macro is alone with its engine steps. -/
def HostIdle (s : State) : Prop := s.pending = []

/-- The step accepts no `RESET`: where one is the oldest command, a macro runs and the `RESET` has not arrived yet. -/
def AcceptsNoReset (s : State) : Prop :=
  ∀ c rest, s.pending = c :: rest → c.command = .reset → s.busy = true ∧ c.wait ≠ 0

/-- The step accepts no command at all: there is none, or a macro runs and the oldest one is a held `ISSUE` or
`CSR_WRITE` (R74) or has not arrived yet. With a macro running, such a step is the engine's. -/
def AcceptsNothing (s : State) : Prop :=
  ∀ c rest, s.pending = c :: rest → s.busy = true ∧
    (c.wait ≠ 0 ∨ (∃ w imm, c.command = .issue w imm) ∨ (∃ addr value, c.command = .csrWrite addr value))

/-- No fault fires in the next `n` cycle completions: injection is disabled, or the fault has already fired, or
`CLOCK` does not reach `FAULT_CYCLE` among them (R135). -/
def NoFaultWithin (s : State) (n : Nat) : Prop :=
  s.faultCycle = 0#64 ∨ s.faultFired = true ∨
    ∀ j : Nat, 0 < j → j ≤ n → s.clock + BitVec.ofNat 64 j ≠ s.faultCycle

/-- The cycles of a macro that no error and no detection ends early (R195, R225). -/
def cyclesOf : MacroContext → Nat
  | .modexp _ _ _ _ k => 1 + 2 * k
  | .sign .noncrt k => 1 + 2 * k
  | .sign .crtDirect k => 13 + 4 * k
  | .sign .crtShamir k => 22 + 4 * k

/-! ## The expansions as the spec prints them

Positions are those of R195 and R225, listings are the words of the spec's tables. Nothing here uses the model's own
stages. -/

/-- R192, R193: `i` is micro-op number `off` of `EXP(rd, ra, rb, rm)`: the copy of ONE, then for each `j < K` the
squaring and the multiply, the multiplier chosen by bit `K - 1 - j` of the exponent register as it stands in `s`. -/
def ExpListing (s : State) (rd ra rb rm : Reg) (k off : Nat) (i : Instr) : Prop :=
  (off = 0 ∧ i = .copy false rd Reg.ONE) ∨
  (∃ j, j < k ∧ off = 2 * j + 1 ∧ i = .mulMod false rd rd rd rm) ∨
  (∃ j, j < k ∧ off = 2 * j + 2 ∧
    i = .mulMod false rd rd (if (s.reg rb).getLsbD (k - 1 - j) then ra else Reg.ONE) rm)

/-- `i` is what row `off` of a printed table of words spells. -/
def WordListing (words : List InstrWord) (off : Nat) (i : Instr) : Prop :=
  ∃ w, words[off]? = some w ∧ decode w (Word.ofNat 0) = .instr i

/-- The words of R215. -/
def prepDirectWords : List InstrWord := [0x20605200#32, 0x40730600#32, 0x20615200#32, 0x40830600#32]

/-- The words of R219. -/
def prepShamirWords : List InstrWord :=
  [0x3090E200#32, 0x30A1E200#32, 0x20605200#32, 0x20FE5200#32, 0x3066F200#32, 0x40730600#32, 0x20615200#32,
   0x3066F200#32, 0x40830600#32]

/-- The words of R220. -/
def checkWords : List InstrWord := [0x406C0E00#32, 0x40FD0E00#32]

/-- The words of R222. -/
def deriveWords : List InstrWord := [0x40CC0000#32, 0x40DD0100#32]

/-- The words of R217. -/
def combineWords : List InstrWord :=
  [0x60900100#32, 0x60A10000#32, 0x306D9200#32, 0x30660200#32, 0x30FCA200#32, 0x30FF1200#32, 0x10B6F200#32]

/-- R213, R214, R218 with the positions of R225: micro-op number `n` of a `sign` is micro-op number `off` of the stage
whose state is `p`, and it is `i`. -/
def SignListing (s : State) (mode : SignMode) (k n off : Nat) (p : Phase) (i : Instr) : Prop :=
  match mode with
  | .noncrt => n = off ∧ p = .expBranch1 ∧ ExpListing s Reg.C Reg.M Reg.D Reg.N k off i
  | .crtDirect =>
    (n = off ∧ p = .loadOperands ∧ WordListing prepDirectWords off i) ∨
    (n = 4 + off ∧ p = .expBranch1 ∧ ExpListing s Reg.POW Reg.M Reg.A Reg.P k off i) ∨
    (n = 5 + 2 * k + off ∧ p = .expBranch2 ∧ ExpListing s Reg.POW2 Reg.M Reg.B Reg.Q k off i) ∨
    (n = 6 + 4 * k + off ∧ p = .combine ∧ WordListing combineWords off i)
  | .crtShamir =>
    (n = off ∧ p = .loadOperands ∧ WordListing prepShamirWords off i) ∨
    (n = 9 + off ∧ p = .expBranch1 ∧ ExpListing s Reg.POW Reg.M Reg.A Reg.X k off i) ∨
    (n = 10 + 2 * k + off ∧ p = .expBranch2 ∧ ExpListing s Reg.POW2 Reg.M Reg.B Reg.Y k off i) ∨
    (n = 11 + 4 * k + off ∧ p = .consistencyCheck ∧ WordListing checkWords off i) ∨
    (n = 13 + 4 * k + off ∧ p = .combine ∧ WordListing (deriveWords ++ combineWords) off i)

/-- R213, R214, R218, R220, R221, R228: how the step of micro-op number `n` of a `sign` ends, `u` being what the
micro-op left: as the error left it, in FAULT_DETECTED on a mismatch of the check, in DONE after the last micro-op,
or at the next one. -/
def SignStepEnds (mode : SignMode) (k n : Nat) (u t : State) : Prop :=
  if u.running = none then t.phase = u.phase ∧ t.running = none ∧ t.faultDetected = u.faultDetected
  else if mode = .crtShamir ∧ n = 12 + 4 * k ∧ u.reg Reg.SCRATCH1 ≠ u.reg Reg.SCRATCH2 then
    t.phase = .faultDetected ∧ t.running = none ∧ t.faultDetected = true
  else if n + 1 = cyclesOf (.sign mode k) then
    t.phase = .done ∧ t.running = none ∧ t.faultDetected = u.faultDetected
  else t.phase = u.phase ∧ t.running = some ⟨.sign mode k, n + 1⟩ ∧ t.faultDetected = u.faultDetected

/-- R211: the registers that no CRT mode writes. -/
def SameCrtInputs (s t : State) : Prop :=
  ∀ x ∈ [Reg.P, Reg.Q, Reg.N, Reg.D, Reg.M, Reg.ONE, Reg.T], t.reg x = s.reg x

/-- Every element of the engine at the reset value of R291. -/
structure AtReset (s : State) : Prop where
  regs : ∀ r : Reg, s.val r = 0
  clock : s.clock = 0#64
  faultCycle : s.faultCycle = 0#64
  faultBranch : s.faultBranch = .none
  config : s.configBw = false ∧ s.configXbit = false
  phase : s.phase = .init
  busy : s.busy = false
  flags : s.faultFired = false ∧ s.faultDetected = false ∧ s.nonInv = false
  errors : s.errIllegal = false ∧ s.errModZero = false ∧ s.errSeq = false ∧ s.errCsr = false
  signing : s.signActive = false ∧ s.signMode = .noncrt
  faultInfo : s.faultInfo = ⟨0#10, 0⟩
  errInfo : s.errInfo = ⟨none, 0#32⟩

end Sys2Proof.Machine
end

