-- ==== Sys2Proof/Certificates/Slice0/Obligations.lean ====
section
/-! DEFINITION. The statements for the provers. Each names the rules of spec/ it rests on. The predicates
`Retired`, `ErrorTaken`, `Consistent`, `AtReset`, `NoFaultWithin` and the `Same…` frames stand in Safety.lean. -/

open Sys2Proof Sys2Proof.Machine

/-! ## Encoding and decoding -/

/-- R113, every row of its table: the encoder writes the spec's word, and the decoder reads it back. -/
def Obligations.EncodingExamplesOfTheSpec : Prop :=
  ∀ imm : Word,
    let spells (w : InstrWord) (i : Instr) : Prop := encodeWord i = w ∧ decode w imm = .instr i
    spells 0x10B6F200#32 (.addMod false Reg.C Reg.SCRATCH1 Reg.SCRATCH2 Reg.N) ∧
    spells 0x20605200#32 (.subMod false Reg.SCRATCH1 Reg.P Reg.ONE Reg.N) ∧
    spells 0x30CCC000#32 (.mulMod false Reg.POW Reg.POW Reg.POW Reg.P) ∧
    spells 0x38CCC000#32 (.mulMod true Reg.POW Reg.POW Reg.POW Reg.P) ∧
    spells 0x40730600#32 (.modCopy false Reg.A Reg.D Reg.SCRATCH1) ∧
    spells 0x50C50000#32 (.copy false Reg.POW Reg.ONE) ∧
    spells 0x60900100#32 (.modInverse false Reg.X Reg.P Reg.Q) ∧
    spells 0x70670200#32 (.addInverse false Reg.SCRATCH1 Reg.A Reg.N) ∧
    spells 0x80500000#32 (.loadImmediate false Reg.ONE imm) ∧
    spells 0x90C00000#32 (.tick Reg.POW) ∧
    spells 0xA0B43200#32 (.modexp Reg.C Reg.M Reg.D Reg.N) ∧
    spells 0xB0000000#32 .signNoncrt ∧
    spells 0xB0000001#32 .signCrtDirect ∧
    spells 0xB0000002#32 .signCrtShamir

/-- R100, R102, R103, R107, R108: decoding an encoded instruction gives it back, with every operand; and no
instruction but `load_immediate` depends on the operand delivered beside its word (R73). -/
def Obligations.DecodeInvertsEncode : Prop :=
  ∀ i : Instr, decode (encodeWord i) (encodeOperand i) = .instr i ∧
    ((∀ nc rd v, i ≠ .loadImmediate nc rd v) → ∀ imm : Word, decode (encodeWord i) imm = .instr i)

/-- R103, R107: each legal word has one meaning, and its instruction encodes to that word; the operand of
`load_immediate` is the one delivered. -/
def Obligations.DecodedInstructionSpellsItsWord : Prop :=
  ∀ (w : InstrWord) (imm : Word) (i : Instr), decode w imm = .instr i →
    encodeWord i = w ∧ ∀ nc rd v, i = .loadImmediate nc rd v → v = imm

/-- R102, R104 to R106: a word is illegal exactly for one of the five causes that R106 lists. -/
def Obligations.IllegalWordsAreThoseOfRule106 : Prop :=
  ∀ (w : InstrWord) (imm : Word),
    let opc := (w.extractLsb' 28 4).toNat
    let rd := w.extractLsb' 20 4
    let ra := w.extractLsb' 16 4
    let rb := w.extractLsb' 12 4
    let rm := w.extractLsb' 8 4
    let mode := w.extractLsb' 0 2
    decode w imm = .illegal ↔
      (opc = 0 ∨ 12 ≤ opc) ∨
      (w.extractLsb' 24 3 ≠ 0#3 ∨ w.extractLsb' 2 6 ≠ 0#6) ∨
      ((opc = 4 ∨ opc = 6 ∨ opc = 7) ∧ rb ≠ 0#4 ∨
        opc = 5 ∧ (rb ≠ 0#4 ∨ rm ≠ 0#4) ∨
        (opc = 8 ∨ opc = 9) ∧ (ra ≠ 0#4 ∨ rb ≠ 0#4 ∨ rm ≠ 0#4) ∨
        opc = 11 ∧ (rd ≠ 0#4 ∨ ra ≠ 0#4 ∨ rb ≠ 0#4 ∨ rm ≠ 0#4) ∨
        opc ≠ 11 ∧ mode ≠ 0#2) ∨
      (9 ≤ opc ∧ opc ≤ 11 ∧ w.getLsbD 27 = true) ∨
      (opc = 11 ∧ mode = 3#2)

/-! ## The primitives -/

/-- R140: `add_mod` writes the exact sum reduced by `x[rm]`, or takes `MODZERO`. -/
def Obligations.AddModWritesTheReducedSum : Prop :=
  ∀ (nc : Bool) (rd ra rb rm : Reg) (s : State),
    encodeWord (.addMod nc rd ra rb rm) &&& 0xF70000FF#32 = 0x10000000#32 ∧
    (s.val rm ≠ 0 → ∃ t, exec (.addMod nc rd ra rb rm) s = .next t ∧
      Retired s t nc rd ((s.val ra + s.val rb) % s.val rm) ∧ t.nonInv = s.nonInv) ∧
    (s.val rm = 0 → ∃ t, exec (.addMod nc rd ra rb rm) s = .next t ∧
      ErrorTaken s t .modZero (encodeWord (.addMod nc rd ra rb rm)))

/-- R141: `sub_mod` writes the floored remainder of the exact difference: the residue `v < x[rm]` with
`v ≡ x[ra] - x[rb]` modulo `x[rm]`. -/
def Obligations.SubModWritesTheCanonicalDifference : Prop :=
  ∀ (nc : Bool) (rd ra rb rm : Reg) (s : State),
    encodeWord (.subMod nc rd ra rb rm) &&& 0xF70000FF#32 = 0x20000000#32 ∧
    (s.val rm ≠ 0 → ∃ t v, exec (.subMod nc rd ra rb rm) s = .next t ∧ v < s.val rm ∧
      (s.val rm : Int) ∣ ((s.val ra : Int) - s.val rb - v) ∧ Retired s t nc rd v ∧ t.nonInv = s.nonInv) ∧
    (s.val rm = 0 → ∃ t, exec (.subMod nc rd ra rb rm) s = .next t ∧
      ErrorTaken s t .modZero (encodeWord (.subMod nc rd ra rb rm)))

/-- R142: `mul_mod` writes the exact double-width product reduced by `x[rm]`. -/
def Obligations.MulModWritesTheReducedProduct : Prop :=
  ∀ (nc : Bool) (rd ra rb rm : Reg) (s : State),
    encodeWord (.mulMod nc rd ra rb rm) &&& 0xF70000FF#32 = 0x30000000#32 ∧
    (s.val rm ≠ 0 → ∃ t, exec (.mulMod nc rd ra rb rm) s = .next t ∧
      Retired s t nc rd (s.val ra * s.val rb % s.val rm) ∧ t.nonInv = s.nonInv) ∧
    (s.val rm = 0 → ∃ t, exec (.mulMod nc rd ra rb rm) s = .next t ∧
      ErrorTaken s t .modZero (encodeWord (.mulMod nc rd ra rb rm)))

/-- R143: `mod_copy` writes the source reduced by `x[rm]`. -/
def Obligations.ModCopyWritesTheReducedSource : Prop :=
  ∀ (nc : Bool) (rd ra rm : Reg) (s : State),
    encodeWord (.modCopy nc rd ra rm) &&& 0xF700F0FF#32 = 0x40000000#32 ∧
    (s.val rm ≠ 0 → ∃ t, exec (.modCopy nc rd ra rm) s = .next t ∧
      Retired s t nc rd (s.val ra % s.val rm) ∧ t.nonInv = s.nonInv) ∧
    (s.val rm = 0 → ∃ t, exec (.modCopy nc rd ra rm) s = .next t ∧
      ErrorTaken s t .modZero (encodeWord (.modCopy nc rd ra rm)))

/-- R144: `copy` writes the source unreduced, and never takes an error. -/
def Obligations.CopyWritesTheSource : Prop :=
  ∀ (nc : Bool) (rd ra : Reg) (s : State),
    encodeWord (.copy nc rd ra) &&& 0xF700FFFF#32 = 0x50000000#32 ∧
    ∃ t, exec (.copy nc rd ra) s = .next t ∧ Retired s t nc rd (s.val ra) ∧ t.nonInv = s.nonInv

/-- R145: `mod_inverse` writes the inverse of `x[ra]` modulo `x[rm]`, pinned by its property; where none exists it
writes 0 and sets `NONINV`; with modulus 0 it takes `MODZERO`. -/
def Obligations.ModInverseInvertsOrFlags : Prop :=
  ∀ (nc : Bool) (rd ra rm : Reg) (s : State),
    encodeWord (.modInverse nc rd ra rm) &&& 0xF700F0FF#32 = 0x60000000#32 ∧
    (s.val rm ≠ 0 → Nat.gcd (s.val ra % s.val rm) (s.val rm) = 1 →
      ∃ t v, exec (.modInverse nc rd ra rm) s = .next t ∧ v < s.val rm ∧
        s.val ra % s.val rm * v % s.val rm = 1 % s.val rm ∧ Retired s t nc rd v ∧ t.nonInv = s.nonInv) ∧
    (s.val rm ≠ 0 → Nat.gcd (s.val ra % s.val rm) (s.val rm) ≠ 1 →
      ∃ t, exec (.modInverse nc rd ra rm) s = .next t ∧ Retired s t nc rd 0 ∧ t.nonInv = true) ∧
    (s.val rm = 0 → ∃ t, exec (.modInverse nc rd ra rm) s = .next t ∧
      ErrorTaken s t .modZero (encodeWord (.modInverse nc rd ra rm)))

/-- R146: `add_inverse` writes the residue that `x[ra]` is completed by to a multiple of `x[rm]`; 0 for a multiple. -/
def Obligations.AddInverseWritesTheNegatedResidue : Prop :=
  ∀ (nc : Bool) (rd ra rm : Reg) (s : State),
    encodeWord (.addInverse nc rd ra rm) &&& 0xF700F0FF#32 = 0x70000000#32 ∧
    (s.val rm ≠ 0 → ∃ t v, exec (.addInverse nc rd ra rm) s = .next t ∧ v < s.val rm ∧
      s.val rm ∣ s.val ra + v ∧ Retired s t nc rd v ∧ t.nonInv = s.nonInv) ∧
    (s.val rm = 0 → ∃ t, exec (.addInverse nc rd ra rm) s = .next t ∧
      ErrorTaken s t .modZero (encodeWord (.addInverse nc rd ra rm)))

/-- R147: `load_immediate` writes the operand of its ISSUE verbatim, and never takes an error. -/
def Obligations.LoadImmediateWritesItsOperand : Prop :=
  ∀ (nc : Bool) (rd : Reg) (imm : Word) (s : State),
    encodeWord (.loadImmediate nc rd imm) &&& 0xF70FFFFF#32 = 0x80000000#32 ∧
    decode (encodeWord (.loadImmediate nc rd imm)) imm = .instr (.loadImmediate nc rd imm) ∧
    ∃ t, exec (.loadImmediate nc rd imm) s = .next t ∧ Retired s t nc rd imm.toNat ∧ t.nonInv = s.nonInv

/-- R148: `tick` keeps its register and completes one cycle on it. -/
def Obligations.TickCompletesACycle : Prop :=
  ∀ (rd : Reg) (s : State),
    encodeWord (.tick rd) &&& 0xFF0FFFFF#32 = 0x90000000#32 ∧
    ∃ t, exec (.tick rd) s = .next t ∧ Retired s t false rd (s.val rd) ∧ t.nonInv = s.nonInv

/-- R139: with `NC = 1` a primitive leaves `CLOCK` and the fault controller alone, `FAULT_CYCLE` reached or not; and
no micro-op of any macro has `NC = 1`. -/
def Obligations.NoCountSkipsCycleCompletion : Prop :=
  (∀ (i : Instr) (s t : State), i.isPrimitive = true → i.noCount = true → exec i s = .next t →
    t.clock = s.clock ∧ SameFaultRecord s t ∧ t.draws = s.draws) ∧
  (∀ (ctx : MacroContext) (g : Stage) (k off : Nat) (s : State) (i : Instr),
    g ∈ stages ctx → g.body.microOp k off s = some i → i.noCount = false)

/-! ## The fault injection controller -/

/-- R51, R135, R138: a fault that has fired is the only one. No step but a `RESET` clears the guard, fires again or
rewrites the record of the place. -/
def Obligations.FaultFiresAtMostOnce : Prop :=
  ∀ s t : State, step s = .next t → AcceptsNoReset s → s.faultFired = true →
    t.faultFired = true ∧ t.faultInfo = s.faultInfo ∧ t.draws = s.draws

/-- R136, R226: the step of a running `sign` in which the fault fires. In a CRT mode the selector names the branch
whose state the step shows, and the flip is in that branch's accumulator; in `noncrt` it is in `C`. -/
def Obligations.SignFaultLandsInTheSelectedBranch : Prop :=
  ∀ (s t : State) (mode : SignMode) (k n : Nat), Consistent s → s.running = some ⟨.sign mode k, n⟩ →
    AcceptsNoReset s → step s = .next t → s.faultFired = false → t.faultFired = true →
    (mode = .noncrt → t.faultInfo.reg = Reg.C) ∧
    (mode ≠ .noncrt →
      (s.faultBranch = .branchP ∧ t.phase = .expBranch1 ∧ t.faultInfo.reg = Reg.POW) ∨
      (s.faultBranch = .branchQ ∧ t.phase = .expBranch2 ∧ t.faultInfo.reg = Reg.POW2))

/-! ## Macros -/

/-- R190, R191, R210: issuing a macro sets `BUSY`, takes the context with `K` as `CONFIG` gives it now, and runs no
micro-op: registers, `CLOCK` and all else stay. A `sign` also records itself in `STATUS`. That the acceptance of a
`sign` leaves `STATE` too, INIT among its values, is the model's reading (DEDUCED, notes/assumptions/7.md). -/
def Obligations.MacroIssueTakesItsContext : Prop :=
  ∀ (s : State),
    let k := (if s.configBw then 1024 else 512) + (if s.configXbit then 1 else 0)
    let kept (t : State) : Prop :=
      t.busy = true ∧ SameRegs s t ∧ t.clock = s.clock ∧ t.nonInv = s.nonInv ∧ SameConfig s t ∧ SameErrors s t ∧
        SameFaultRecord s t ∧ t.faultDetected = s.faultDetected ∧ t.phase = s.phase ∧ t.pending = s.pending ∧
        t.replies = s.replies
    (∀ rd ra rb rm, ∃ t, exec (.modexp rd ra rb rm) s = .next t ∧
      t.running = some ⟨.modexp rd ra rb rm k, 0⟩ ∧ kept t ∧ t.signActive = s.signActive ∧
      t.signMode = s.signMode) ∧
    (∃ t, exec .signNoncrt s = .next t ∧
      t.running = some ⟨.sign .noncrt k, 0⟩ ∧ kept t ∧ t.signActive = true ∧ t.signMode = .noncrt) ∧
    (∃ t, exec .signCrtDirect s = .next t ∧
      t.running = some ⟨.sign .crtDirect k, 0⟩ ∧ kept t ∧ t.signActive = true ∧ t.signMode = .crtDirect) ∧
    (∃ t, exec .signCrtShamir s = .next t ∧
      t.running = some ⟨.sign .crtShamir k, 0⟩ ∧ kept t ∧ t.signActive = true ∧ t.signMode = .crtShamir)

/-- R130, R260: an engine step, under no command or one held or not yet arrived, runs one micro-op. Either it takes `MODZERO`, which ends the macro
with no register and no `CLOCK` changed, or it counts one cycle, changes at most one register, and the macro moves
to its next position or ends. -/
def Obligations.EngineStepRunsOneMicroOp : Prop :=
  ∀ (s t : State) (r : Running), s.running = some r → AcceptsNothing s → step s = .next t →
    (t.phase = .halted ∧ t.errModZero = true ∧ t.running = none ∧ t.clock = s.clock ∧ SameRegs s t) ∨
    (t.clock = s.clock + 1#64 ∧ (∃ rd : Reg, ∀ x, x ≠ rd → t.reg x = s.reg x) ∧ SameErrors s t ∧
      (t.running = some ⟨r.mctx, r.seq + 1⟩ ∨ t.running = none))

/-- R192, R193: the micro-ops of `modexp` in order, in every state. What the step leaves is what the primitive issued
alone leaves, but for the position; the position is the next one, and after the last micro-op or an error there is
none (R191, R197). -/
def Obligations.ModexpRunsItsExpansion : Prop :=
  ∀ (s : State) (rd ra rb rm : Reg) (k n : Nat) (i : Instr),
    s.running = some ⟨.modexp rd ra rb rm k, n⟩ → AcceptsNothing s → ExpListing s rd ra rb rm k n i →
    ∃ u t, exec i s = .next u ∧ step s = .next t ∧
      SameRegs u t ∧ t.clock = u.clock ∧ t.nonInv = u.nonInv ∧ SameConfig u t ∧ SameErrors u t ∧
      SameFaultRecord u t ∧ SameSigning u t ∧ t.phase = u.phase ∧
      t.running = if u.running = none ∨ n = 2 * k then none else some ⟨.modexp rd ra rb rm k, n + 1⟩

/-- R213 to R222: the micro-ops of each mode of `sign` in order, in every state, the preconditions of R212 met or
not. Every position has one. Its step does what the listed primitive issued alone does, with `STATE` set to the
stage's state where it is the stage's first; `SignStepEnds` says how the step ends. In a consistent state `STATE` is
the stage's state in every one of its steps (R223). -/
def Obligations.SignRunsItsListings : Prop :=
  ∀ (s : State) (mode : SignMode) (k n : Nat),
    s.running = some ⟨.sign mode k, n⟩ → AcceptsNothing s →
    (n < cyclesOf (.sign mode k) → ∃ off p i, SignListing s mode k n off p i) ∧
    ∀ off p i, SignListing s mode k n off p i →
      (∃ u t, exec i { s with phase := if off = 0 then p else s.phase } = .next u ∧ step s = .next t ∧
        SameRegs u t ∧ t.clock = u.clock ∧ t.nonInv = u.nonInv ∧ SameConfig u t ∧ SameErrors u t ∧
        SameFaultRecord u t ∧ t.signActive = u.signActive ∧ t.signMode = u.signMode ∧ SignStepEnds mode k n u t) ∧
      (Consistent s → off ≠ 0 → s.phase = p)

/-- R211: a step of a running `sign`, faulted or not, in every state. `noncrt` writes `C` alone; a CRT mode leaves its
inputs alone, and `C` too before its last micro-op. (R211 says the latter of each mode; the listing of R213 has `C` as
the destination of every micro-op of `noncrt`, and the model follows R213, notes/assumptions/13.md.) -/
def Obligations.SignWritesOnlyItsRegisters : Prop :=
  ∀ (s t : State) (mode : SignMode) (k n : Nat),
    s.running = some ⟨.sign mode k, n⟩ → AcceptsNothing s → step s = .next t →
    (mode = .noncrt → ∀ x : Reg, x ≠ Reg.C → t.reg x = s.reg x) ∧
    (mode ≠ .noncrt → SameCrtInputs s t ∧
      (n + 1 ≠ cyclesOf (.sign mode k) → t.reg Reg.C = s.reg Reg.C))

/-- R194, with R191 for `BUSY` and R195 for `CLOCK`: with the host idle, a `modexp` in which no fault fires ends after
`1 + 2K` engine steps with `x[rd] = x[ra]^e mod x[rm]`, `e = x[rb] mod 2^K`, `CLOCK` advanced by `1 + 2K`, and no other
register written. -/
def Obligations.ModexpComputesThePower : Prop :=
  ∀ (s : State) (rd ra rb rm : Reg) (k : Nat),
    s.running = some ⟨.modexp rd ra rb rm k, 0⟩ → HostIdle s → 0 < k → NoFaultWithin s (1 + 2 * k) →
    s.val Reg.ONE = 1 → 0 < s.val rm → rd ≠ ra → rd ≠ rb → rd ≠ rm → rd ≠ Reg.ONE →
    ∃ t, Host.Core.run Sys2Proof.core (1 + 2 * k) s = .next t ∧
      t.val rd = s.val ra ^ (s.val rb % 2 ^ k) % s.val rm ∧ (∀ x : Reg, x ≠ rd → t.reg x = s.reg x) ∧
      t.clock = s.clock + BitVec.ofNat 64 (1 + 2 * k) ∧ t.busy = false ∧ t.phase = s.phase ∧ SameErrors s t ∧
      t.nonInv = s.nonInv

/-- R197, R254: a `modexp` issued with modulus 0 completes its copy, one cycle, and halts at the first squaring with
that micro-op's word in `ERR_INFO`, if no error came before. -/
def Obligations.ModexpHaltsOnModulusZero : Prop :=
  ∀ (s : State) (rd ra rb rm : Reg) (k : Nat),
    s.running = some ⟨.modexp rd ra rb rm k, 0⟩ → HostIdle s → 0 < k → NoFaultWithin s 1 →
    s.val rm = 0 → rd ≠ rm →
    ∃ t, Host.Core.run Sys2Proof.core 2 s = .next t ∧
      t.phase = .halted ∧ t.busy = false ∧ t.errModZero = true ∧
      t.reg rd = s.reg Reg.ONE ∧ (∀ x : Reg, x ≠ rd → t.reg x = s.reg x) ∧ t.clock = s.clock + 1#64 ∧
      (s.errInfo.cause = none → t.errInfo = ⟨some .modZero, encodeWord (.mulMod false rd rd rd rm)⟩)

/-- R74, R195, R225, R228: every macro ends, after at most its number of micro-ops. With no error a `modexp` leaves
`STATE` as it was and a `sign` ends DONE, each with its cycles counted; a Shamir mismatch ends FAULT_DETECTED with
`13 + 4K`; a modulus 0 ends HALTED. -/
def Obligations.EveryMacroEndsWithItsCycleCount : Prop :=
  ∀ (s : State) (ctx : MacroContext), s.running = some ⟨ctx, 0⟩ → HostIdle s →
    ∃ t, Host.Core.run Sys2Proof.core (cyclesOf ctx) s = .next t ∧ t.busy = false ∧
      ((t.clock = s.clock + BitVec.ofNat 64 (cyclesOf ctx) ∧ SameErrors s t ∧
          match ctx with
          | .modexp _ _ _ _ _ => t.phase = s.phase
          | .sign _ _ => t.phase = .done) ∨
        (∃ k, ctx = .sign .crtShamir k ∧ t.phase = .faultDetected ∧ t.faultDetected = true ∧
          SameErrors s t ∧ t.clock = s.clock + BitVec.ofNat 64 (13 + 4 * k)) ∨
        (t.phase = .halted ∧ t.errModZero = true))

/-- R220, R221: the last micro-op of the Shamir check. It reduces `POW2` modulo `T`; on a mismatch the engine ends
in FAULT_DETECTED with no register but `SCRATCH2` written, so that `C` keeps its value; else it goes on. No fault
can fire in it (R136). -/
def Obligations.ShamirMismatchEndsInFaultDetected : Prop :=
  ∀ (s : State) (k : Nat), Consistent s → s.running = some ⟨.sign .crtShamir k, 12 + 4 * k⟩ →
    AcceptsNothing s →
    s.val Reg.T ≠ 0 →
    ∃ t, step s = .next t ∧ t.val Reg.SCRATCH2 = s.val Reg.POW2 % s.val Reg.T ∧
      (∀ x : Reg, x ≠ Reg.SCRATCH2 → t.reg x = s.reg x) ∧ t.clock = s.clock + 1#64 ∧ SameFaultRecord s t ∧
      SameErrors s t ∧
      (s.val Reg.SCRATCH1 ≠ s.val Reg.POW2 % s.val Reg.T →
        t.faultDetected = true ∧ t.phase = .faultDetected ∧ t.busy = false) ∧
      (s.val Reg.SCRATCH1 = s.val Reg.POW2 % s.val Reg.T →
        t.faultDetected = s.faultDetected ∧ t.phase = .consistencyCheck ∧
          t.running = some ⟨.sign .crtShamir k, 13 + 4 * k⟩)

/-- R213, R227 (a): `sign noncrt` with no fault ends DONE with `C = M^D mod N`, and writes no other register. -/
def Obligations.SignNoncrtComputesTheSignature : Prop :=
  ∀ (s : State) (k : Nat), s.running = some ⟨.sign .noncrt k, 0⟩ → HostIdle s → 0 < k →
    NoFaultWithin s (1 + 2 * k) → s.val Reg.ONE = 1 → 0 < s.val Reg.N → s.val Reg.D < 2 ^ k →
    ∃ t, Host.Core.run Sys2Proof.core (1 + 2 * k) s = .next t ∧ t.phase = .done ∧
      t.val Reg.C = s.val Reg.M ^ s.val Reg.D % s.val Reg.N ∧ (∀ x : Reg, x ≠ Reg.C → t.reg x = s.reg x)

/-- R214 to R217, R227 (b): under the key's preconditions, with no fault and the host idle, `sign crt_direct` ends
DONE with the `C < N` that has the branch signatures as its residues, and its inputs as they were (R211). That the two
branch exponents are below `2^K` is this statement's own narrowing, which R212 does not ask: the engine scans `K` bits
of an exponent (R192), so R227 (b) holds of no larger one. Every prime up to `2^K` meets it. -/
def Obligations.SignCrtDirectRecombinesTheBranches : Prop :=
  ∀ (s : State) (k p q : Nat), s.running = some ⟨.sign .crtDirect k, 0⟩ → HostIdle s → 0 < k →
    NoFaultWithin s (13 + 4 * k) → s.val Reg.ONE = 1 →
    Nat.Prime p → Nat.Prime q → p ≠ q → s.val Reg.D % (p - 1) < 2 ^ k → s.val Reg.D % (q - 1) < 2 ^ k →
    s.val Reg.P = p → s.val Reg.Q = q → s.val Reg.N = p * q →
    ∃ t, Host.Core.run Sys2Proof.core (13 + 4 * k) s = .next t ∧ t.phase = .done ∧ t.nonInv = s.nonInv ∧
      SameCrtInputs s t ∧ t.val Reg.C < p * q ∧
      t.val Reg.C % p = s.val Reg.M ^ (s.val Reg.D % (p - 1)) % p ∧
      t.val Reg.C % q = s.val Reg.M ^ (s.val Reg.D % (q - 1)) % q

/-- R227 (d) for `sign crt_direct`: with `D` inverse to `e`, `C = M^D mod N`, and the signature of `M < N` verifies.
The statement's own narrowings: the branch exponents are below `2^K`, as in `SignCrtDirectRecombinesTheBranches`; and
`M` is odd where a prime is 2, for then `D mod 1 = 0` makes that branch's signature 1, and R227 (d) does not hold of
an even `M`. -/
def Obligations.SignCrtDirectVerifies : Prop :=
  ∀ (s : State) (k p q e : Nat), s.running = some ⟨.sign .crtDirect k, 0⟩ → HostIdle s → 0 < k →
    NoFaultWithin s (13 + 4 * k) → s.val Reg.ONE = 1 →
    Nat.Prime p → Nat.Prime q → p ≠ q → (p = 2 ∨ q = 2 → s.val Reg.M % 2 = 1) →
    s.val Reg.D % (p - 1) < 2 ^ k → s.val Reg.D % (q - 1) < 2 ^ k →
    s.val Reg.P = p → s.val Reg.Q = q → s.val Reg.N = p * q → s.val Reg.M < p * q →
    e * s.val Reg.D % ((p - 1) * (q - 1)) = 1 →
    ∃ t, Host.Core.run Sys2Proof.core (13 + 4 * k) s = .next t ∧ t.phase = .done ∧
      t.val Reg.C = s.val Reg.M ^ s.val Reg.D % (p * q) ∧ t.val Reg.C ^ e % (p * q) = s.val Reg.M

/-- R218 to R222, R227 (c): under the Shamir preconditions, with no fault and the host idle, `sign crt_shamir` passes
its check and ends DONE with the same residues as `crt_direct`, so that `C = M^D mod N` (R227 (d)), and its inputs as
they were (R211). R212 asks `(p-1)(t-1) < 2^K`; that the reduced exponents are below `2^K` is all that is needed of it
here, for both branches. -/
def Obligations.SignCrtShamirPassesAndRecombines : Prop :=
  ∀ (s : State) (k p q r e : Nat), s.running = some ⟨.sign .crtShamir k, 0⟩ → HostIdle s → 0 < k →
    NoFaultWithin s (22 + 4 * k) → s.val Reg.ONE = 1 →
    Nat.Prime p → Nat.Prime q → Nat.Prime r → p ≠ q → r < p → r < q →
    s.val Reg.D % ((p - 1) * (r - 1)) < 2 ^ k → s.val Reg.D % ((q - 1) * (r - 1)) < 2 ^ k →
    s.val Reg.P = p → s.val Reg.Q = q → s.val Reg.N = p * q → s.val Reg.T = r →
    e * s.val Reg.D % ((p - 1) * (q - 1)) = 1 →
    ∃ t, Host.Core.run Sys2Proof.core (22 + 4 * k) s = .next t ∧ t.phase = .done ∧
      t.faultDetected = s.faultDetected ∧ t.nonInv = s.nonInv ∧ SameCrtInputs s t ∧ t.val Reg.C < p * q ∧
      t.val Reg.C % p = s.val Reg.M ^ (s.val Reg.D % (p - 1)) % p ∧
      t.val Reg.C % q = s.val Reg.M ^ (s.val Reg.D % (q - 1)) % q ∧
      t.val Reg.C = s.val Reg.M ^ s.val Reg.D % (p * q)

/-- R302, for the engine steps of one macro with the host idle: two runs that share only the position and `CLOCK`
have the same `CLOCK` and the same position as long as neither has halted or detected a fault, whatever their
registers, fault settings and draws. -/
def Obligations.CycleCountIsIndependentOfData : Prop :=
  ∀ (s₁ s₂ t₁ t₂ : State) (n : Nat), s₁.running = s₂.running → s₁.clock = s₂.clock → HostIdle s₁ → HostIdle s₂ →
    Host.Core.run Sys2Proof.core n s₁ = .next t₁ → Host.Core.run Sys2Proof.core n s₂ = .next t₂ →
    t₁.phase ≠ .halted → t₁.phase ≠ .faultDetected → t₂.phase ≠ .halted → t₂.phase ≠ .faultDetected →
    t₁.clock = t₂.clock ∧ t₁.running = t₂.running

/-! ## The host's commands -/

/-- R73, R130: an ISSUE that the port accepts runs the decoded instruction on the state without the command, in
LOAD_OPERANDS where it was INIT and the instruction is no `sign`. -/
def Obligations.StepRunsTheDecodedInstruction : Prop :=
  ∀ (s : State) (wait : Nat) (w : InstrWord) (imm : Word) (rest : List PendingCommand) (i : Instr),
    s.pending = ⟨wait, .issue w imm⟩ :: rest → s.busy = false → s.phase.terminal = false →
    decode w imm = .instr i →
    step s = exec i { s with
      pending := rest
      phase := if i.isSign = false ∧ s.phase = .init then .loadOperands else s.phase }

/-- R253, with its examples: an illegal word halts the engine from any state that is not terminal, INIT too, with the
word in the error record and nothing executed. -/
def Obligations.IllegalWordHaltsTheEngine : Prop :=
  (∀ (s : State) (wait : Nat) (w : InstrWord) (imm : Word) (rest : List PendingCommand),
    s.pending = ⟨wait, .issue w imm⟩ :: rest → s.busy = false → s.phase.terminal = false →
    decode w imm = .illegal →
    ∃ t, step s = .next t ∧ ErrorTaken { s with pending := rest } t .illegal w) ∧
  (∀ imm : Word, ∀ w ∈ [0x00000000#32, 0xC0000000#32, 0xB0000003#32, 0x98C00000#32, 0x10B6F201#32, 0x41730600#32,
    0x40735600#32], decode w imm = .illegal)

/-- R255, R259: in a terminal state an ISSUE is refused with `SEQ`, whatever its word; outside INIT and LOAD_OPERANDS
a CSR write is refused with `SEQ`, whatever its address and value. -/
def Obligations.WrongStateIsRefusedWithSeq : Prop :=
  (∀ (s : State) (wait : Nat) (w : InstrWord) (imm : Word) (rest : List PendingCommand),
    s.pending = ⟨wait, .issue w imm⟩ :: rest → s.busy = false → s.phase.terminal = true →
    ∃ t, step s = .next t ∧ ErrorTaken { s with pending := rest } t .seq w) ∧
  (∀ (s : State) (wait : Nat) (addr : CsrAddr) (value : CsrWord) (rest : List PendingCommand),
    s.pending = ⟨wait, .csrWrite addr value⟩ :: rest → s.busy = false →
    s.phase ≠ .init → s.phase ≠ .loadOperands →
    ∃ t, step s = .next t ∧ ErrorTaken { s with pending := rest } t .seq (addr.setWidth 32))

/-- R255, R262: only `RESET` leaves a terminal state. Every other step keeps the registers, `CLOCK`, `STATE`, the
configuration, the fault record and the signing flags. -/
def Obligations.TerminalStateIsFrozen : Prop :=
  ∀ s t : State, s.phase.terminal = true → s.running = none → AcceptsNoReset s → step s = .next t →
    SameRegs s t ∧ t.clock = s.clock ∧ t.phase = s.phase ∧ t.running = none ∧ SameConfig s t ∧
      SameFaultRecord s t ∧ SameSigning s t ∧ t.nonInv = s.nonInv

/-- R76, R256: a CSR write in INIT or LOAD_OPERANDS. The three writable CSRs take their legal values, and nothing
else changes; a reserved value and every other address are refused with `CSR`. -/
def Obligations.CsrWriteFollowsItsProcedure : Prop :=
  ∀ (s : State) (wait : Nat) (addr : CsrAddr) (value : CsrWord) (rest : List PendingCommand),
    s.pending = ⟨wait, .csrWrite addr value⟩ :: rest → s.busy = false →
    (s.phase = .init ∨ s.phase = .loadOperands) →
    let high := value.extractLsb' 2 62
    let low := value.extractLsb' 0 2
    let base := { s with pending := rest }
    if addr = 0x01#8 then step s = .next { base with faultCycle := value }
    else if addr = 0x02#8 ∧ high = 0#62 ∧ low ≠ 3#2 then
      ∃ b : FaultBranch, b.code = low ∧ step s = .next { base with faultBranch := b }
    else if addr = 0x03#8 ∧ high = 0#62 then
      step s = .next { base with configBw := low.getLsbD 0, configXbit := low.getLsbD 1 }
    else ∃ t, step s = .next t ∧ ErrorTaken base t .csr (addr.setWidth 32)

/-- R75, R77, R81, R86: a read command, between two micro-ops of a running macro as well as outside one, returns the
CSR's or the register's value at that point and changes nothing of the engine. -/
def Obligations.HostReadsDisturbNothing : Prop :=
  ∀ (s : State) (wait : Nat) (rest : List PendingCommand), (s.busy = false ∨ wait = 0) →
    (∀ addr : CsrAddr, s.pending = ⟨wait, .csrRead addr⟩ :: rest →
      ∃ t, step s = .next t ∧ t.replies = s.replies ++ [.csr addr (s.csrValue addr)] ∧ t.pending = rest ∧
        SameEngine s t) ∧
    (∀ r : Reg, s.pending = ⟨wait, .regRead r⟩ :: rest →
      ∃ t, step s = .next t ∧ t.replies = s.replies ++ [.reg r (s.reg r)] ∧ t.pending = rest ∧ SameEngine s t)

/-- R40 to R49: the fields of every CSR at their bits, the reserved bits 0, and 0 at the unimplemented
addresses. -/
def Obligations.CsrFieldsStandAtTheirBits : Prop :=
  ∀ s : State,
    let ctrl := s.csrValue 0x02#8
    let config := s.csrValue 0x03#8
    let status := s.csrValue 0x04#8
    let place := s.csrValue 0x05#8
    let err := s.csrValue 0x06#8
    (s.csrValue 0x00#8 = s.clock ∧ s.csrValue 0x01#8 = s.faultCycle) ∧
    (ctrl.toNat = match s.faultBranch with | .none => 0 | .branchP => 1 | .branchQ => 2) ∧
    (config.getLsbD 0 = s.configBw ∧ config.getLsbD 1 = s.configXbit ∧ config.extractLsb' 2 62 = 0#62) ∧
    ((status.extractLsb' 0 4).toNat = (match s.phase with
        | .init => 0 | .loadOperands => 1 | .expBranch1 => 2 | .expBranch2 => 3 | .consistencyCheck => 4
        | .combine => 5 | .done => 6 | .faultDetected => 7 | .halted => 8) ∧
      status.getLsbD 4 = s.busy ∧ status.getLsbD 5 = s.faultFired ∧ status.getLsbD 6 = s.faultDetected ∧
      status.getLsbD 7 = s.nonInv ∧ status.getLsbD 8 = s.errIllegal ∧ status.getLsbD 9 = s.errModZero ∧
      status.getLsbD 10 = s.errSeq ∧ status.getLsbD 11 = s.errCsr ∧ status.getLsbD 12 = s.signActive ∧
      (status.extractLsb' 13 2).toNat = (match s.signMode with | .noncrt => 0 | .crtDirect => 1 | .crtShamir => 2) ∧
      status.extractLsb' 15 49 = 0#49) ∧
    (place.extractLsb' 0 10 = s.faultInfo.bit ∧ (place.extractLsb' 16 4).toNat = (s.faultInfo.reg : Nat) ∧
      place.extractLsb' 10 6 = 0#6 ∧ place.extractLsb' 20 44 = 0#44) ∧
    ((err.extractLsb' 0 3).toNat = (match s.errInfo.cause with
        | none => 0 | some .illegal => 1 | some .modZero => 2 | some .seq => 3 | some .csr => 4) ∧
      err.extractLsb' 3 29 = 0#29 ∧ err.extractLsb' 32 32 = s.errInfo.info) ∧
    (∀ addr : CsrAddr, 7 ≤ addr.toNat → s.csrValue addr = 0#64)

/-- R74: while a macro runs, an ISSUE or a CSR write stays pending, ahead of what is behind it, and the step is the
engine's. -/
def Obligations.HeldCommandStaysPending : Prop :=
  ∀ (s t : State) (c : PendingCommand) (rest : List PendingCommand), s.busy = true → s.pending = c :: rest →
    ((∃ w imm, c.command = .issue w imm) ∨ (∃ addr value, c.command = .csrWrite addr value)) →
    step s = .next t →
    engineStep { s with pending := ⟨c.wait - 1, c.command⟩ :: rest } = .next t ∧
      t.pending = ⟨c.wait - 1, c.command⟩ :: rest ∧ SameConfig s t ∧ t.replies = s.replies

/-- R291, R290, R292: the state after reset, and after a `RESET` accepted at any time, a running macro or not. Every
register and every CSR reads 0. That a `RESET` keeps the host's later commands and the replies is the model's reading
of two lists of its own (DEDUCED, notes/assumptions/10.md; the lists: 1.md and 4.md there). -/
def Obligations.ResetSetsEveryElement : Prop :=
  AtReset State.reset ∧
  (∀ s : State, AtReset s → ∀ addr : CsrAddr, s.csrValue addr = 0#64) ∧
  (∀ (s : State) (wait : Nat) (rest : List PendingCommand), s.pending = ⟨wait, .reset⟩ :: rest →
    (s.busy = false ∨ wait = 0) →
    ∃ t, step s = .next t ∧ AtReset t ∧ t.pending = rest ∧ t.replies = s.replies)

/-! ## The whole machine -/

/-- R45, R47, R252: the sticky flags of `STATUS` and the first error's record. No step but a `RESET` clears one or
rewrites the record. -/
def Obligations.StickyFlagsAreClearedOnlyByReset : Prop :=
  ∀ s t : State, step s = .next t → AcceptsNoReset s →
    (s.faultFired = true → t.faultFired = true) ∧ (s.faultDetected = true → t.faultDetected = true) ∧
    (s.nonInv = true → t.nonInv = true) ∧ (s.errIllegal = true → t.errIllegal = true) ∧
    (s.errModZero = true → t.errModZero = true) ∧ (s.errSeq = true → t.errSeq = true) ∧
    (s.errCsr = true → t.errCsr = true) ∧ (s.signActive = true → t.signActive = true) ∧
    (s.errInfo.cause ≠ none → t.errInfo = s.errInfo)

/-- R41, R42, R81, R131: a step that is no `RESET` advances `CLOCK` by 0 or 1, changes at most one register, and
changes no register where `CLOCK` stands still unless it is the host's ISSUE of a primitive with `NC = 1`. -/
def Obligations.StepCountsAtMostOneCycle : Prop :=
  ∀ s t : State, step s = .next t → AcceptsNoReset s →
    (t.clock = s.clock ∨ t.clock = s.clock + 1#64) ∧
    (∃ rd : Reg, ∀ x : Reg, x ≠ rd → t.reg x = s.reg x) ∧
    (t.clock = s.clock → SameRegs s t ∨
      ∃ wait w imm rest i, s.pending = ⟨wait, .issue w imm⟩ :: rest ∧ decode w imm = .instr i ∧ i.noCount = true)

/-- R42 to R44, R295: the engine never writes `FAULT_CYCLE`, `FAULT_CTRL` or `CONFIG`. A step changes one of them
only by accepting a CSR write in INIT or LOAD_OPERANDS with no macro running, or a `RESET`. -/
def Obligations.OnlyTheHostWritesTheConfiguration : Prop :=
  ∀ s t : State, step s = .next t → AcceptsNoReset s →
    SameConfig s t ∨
    ∃ wait addr value rest, s.pending = ⟨wait, .csrWrite addr value⟩ :: rest ∧ s.busy = false ∧
      (s.phase = .init ∨ s.phase = .loadOperands)

/-- R291: the state after reset is consistent. -/
def Obligations.ResetIsConsistent : Prop := Consistent State.reset

/-- R44 to R52, R191, R210, R221, R223, R252: every step of a consistent state that answers a next state answers a
consistent one. -/
def Obligations.StepKeepsConsistency : Prop := ∀ s t : State, Consistent s → step s = .next t → Consistent t

/-- R250: every accepted command and every micro-op has an outcome that leaves a next state: from a consistent state
no step faults and none is refused. -/
def Obligations.ConsistentStateAlwaysSteps : Prop := ∀ s : State, Consistent s → ∃ t, step s = .next t
end

