-- ==== Sys2Proof/Laws/Basic.lean ====
section
/-! SUPPORT. Numbers in registers, and the bounds of the modulus instructions' results. -/

namespace Sys2Proof

theorem toNat_wrapTo (a b w : Nat) (h : a * b = w) (n : Nat) : (wrapTo a b w h n).toNat = n % 2 ^ w := by
  subst h
  simp only [wrapTo, BitVec.toNat_ofNatLT, Nat.pow_mul]

/-- `Word.ofNat` keeps the low 1024 bits. -/
theorem Word.toNat_ofNat (n : Nat) : (Word.ofNat n).toNat = n % 2 ^ 1024 := toNat_wrapTo 256 4 1024 rfl n

/-- `Word.ofNat` is the library's `BitVec.ofNat`. -/
theorem Word.ofNat_eq (n : Nat) : Word.ofNat n = BitVec.ofNat 1024 n := by
  apply BitVec.eq_of_toNat_eq
  rw [Word.toNat_ofNat, BitVec.toNat_ofNat]

/-- A number that some register's value exceeds is stored whole. -/
theorem Word.toNat_ofNat_of_lt {n : Nat} {v : Word} (h : n < v.toNat) : (Word.ofNat n).toNat = n := by
  rw [Word.toNat_ofNat, Nat.mod_eq_of_lt (Nat.lt_trans h v.isLt)]

/-- A register's value is stored whole. -/
@[simp] theorem Word.ofNat_toNat (v : Word) : Word.ofNat v.toNat = v := by
  apply BitVec.eq_of_toNat_eq
  rw [Word.toNat_ofNat, Nat.mod_eq_of_lt v.isLt]

/-- Flipping bit `b` of a register flips bit `b` of its value. -/
theorem Word.toNat_flip (v : Word) {b : Nat} (h : b < 1024) :
    (v ^^^ Word.ofNat (2 ^ b)).toNat = v.toNat ^^^ 2 ^ b := by
  rw [BitVec.toNat_xor, Word.toNat_ofNat, Nat.mod_eq_of_lt (Nat.pow_lt_pow_right Nat.one_lt_two h)]

end Sys2Proof

namespace Sys2Proof.Machine

theorem addMod_lt (a b : Nat) {m : Nat} (h : 0 < m) : addMod a b m < m := Nat.mod_lt _ h

theorem mulMod_lt (a b : Nat) {m : Nat} (h : 0 < m) : mulMod a b m < m := Nat.mod_lt _ h

theorem modCopy_lt (a : Nat) {m : Nat} (h : 0 < m) : modCopy a m < m := Nat.mod_lt _ h

theorem addInverse_lt (a : Nat) {m : Nat} (h : 0 < m) : addInverse a m < m := Nat.mod_lt _ h

/-- The floored remainder of a difference is a residue. -/
theorem subMod_cast (a b : Nat) {m : Nat} (h : 0 < m) : (subMod a b m : Int) = ((a : Int) - b) % m :=
  Int.toNat_of_nonneg (Int.emod_nonneg _ (by omega))

theorem subMod_lt (a b : Nat) {m : Nat} (h : 0 < m) : subMod a b m < m := by
  have e := subMod_cast a b h
  have l := Int.emod_lt_of_pos ((a : Int) - b) (show (0 : Int) < m by omega)
  omega

theorem modInverse_lt (a : Nat) {m : Nat} (h : 0 < m) : modInverse a m < m := by
  unfold modInverse
  split
  · have n := Int.emod_nonneg (euclidCofactor (a % m + 1) m (a % m) 0 1) (show (m : Int) ≠ 0 by omega)
    have l := Int.emod_lt_of_pos (euclidCofactor (a % m + 1) m (a % m) 0 1) (show (0 : Int) < m by omega)
    omega
  · exact h

/-- Euclid's cofactor: where `t0` and `t1` are cofactors of `r0` and `r1` modulo `m`, the answer is one of their gcd. -/
theorem euclidCofactor_modEq (m : Nat) (c : Int) (fuel r0 r1 : Nat) (t0 t1 : Int) (hf : r1 < fuel)
    (h0 : c * t0 ≡ r0 [ZMOD m]) (h1 : c * t1 ≡ r1 [ZMOD m]) :
    c * euclidCofactor fuel r0 r1 t0 t1 ≡ (Nat.gcd r0 r1 : Nat) [ZMOD m] := by
  induction fuel generalizing r0 r1 t0 t1 with
  | zero => omega
  | succ f ih =>
    unfold euclidCofactor
    split
    · rename_i hz
      subst hz
      simpa using h0
    · rename_i hz
      have hpos : 0 < r1 := Nat.pos_of_ne_zero hz
      have hd : ((r0 % r1 : Nat) : Int) = (r0 : Int) - ((r0 / r1 : Nat) : Int) * r1 := by
        have e : ((r1 * (r0 / r1) + r0 % r1 : Nat) : Int) = r0 := by exact_mod_cast Nat.div_add_mod r0 r1
        push_cast at e ⊢
        linarith
      have hl := Nat.mod_lt r0 hpos
      have h2 : c * (t0 - ((r0 / r1 : Nat) : Int) * t1) ≡ (r0 % r1 : Nat) [ZMOD m] := by
        rw [hd, show c * (t0 - ((r0 / r1 : Nat) : Int) * t1) = c * t0 - ((r0 / r1 : Nat) : Int) * (c * t1) by ring]
        exact h0.sub (h1.mul_left _)
      rw [Nat.gcd_comm r0 r1, Nat.gcd_rec r1 r0, Nat.gcd_comm]
      exact ih r1 (r0 % r1) _ _ (by omega) h1 h2

/-- Where an inverse exists, `modInverse` is one (R145). -/
theorem modInverse_mul {a m : Nat} (hm : 0 < m) (h : invertible a m = true) :
    a % m * modInverse a m % m = 1 % m := by
  have hg : Nat.gcd (a % m) m = 1 := by simpa [invertible] using h
  have k := euclidCofactor_modEq m (a % m : Nat) (a % m + 1) m (a % m) 0 1 (by omega)
    (by simp [Int.modEq_iff_dvd]) (by simp)
  rw [Nat.gcd_comm, hg] at k
  have n := Int.emod_nonneg (euclidCofactor (a % m + 1) m (a % m) 0 1) (show (m : Int) ≠ 0 by omega)
  have e : ((a % m : Nat) : Int) * (euclidCofactor (a % m + 1) m (a % m) 0 1 % m) ≡ 1 [ZMOD m] :=
    (Int.ModEq.mul_left _ (Int.mod_modEq _ _)).trans (by exact_mod_cast k)
  unfold modInverse
  rw [if_pos h]
  zify
  rw [Int.toNat_of_nonneg n]
  simpa [Int.ModEq] using e

/-- Where no inverse exists the result is 0 (R145). -/
theorem modInverse_of_not_invertible {a m : Nat} (h : invertible a m = false) : modInverse a m = 0 := by
  simp [modInverse, h]

theorem bitLength_pos (s : State) : 0 < s.bitLength := by
  unfold State.bitLength
  split <;> omega

theorem bitLength_le (s : State) : s.bitLength ≤ 1024 := by
  unfold State.bitLength
  split <;> omega

/-- The drawn bit lies below `L` (R137). -/
theorem faultDraw_lt (s : State) : s.faultDraw < s.bitLength := Nat.mod_lt _ (bitLength_pos s)

end Sys2Proof.Machine
end

