-- ==== Sys2Proof/Laws/Encoding.lean ====
section
/-! SUPPORT. Reading back the fields of an encoded word (spec 30_encoding.md R100). -/

namespace Sys2Proof

variable (opc : BitVec 4) (nc : Bool) (rd ra rb rm : Reg) (mode : BitVec 2)

@[simp] theorem fieldWord_opcode : (fieldWord opc nc rd ra rb rm mode).extractLsb' 28 4 = opc := by
  ext i hi
  simp only [fieldWord, BitVec.getElem_extractLsb', BitVec.getLsbD_append]
  interval_cases i <;> simp

@[simp] theorem fieldWord_noCount : (fieldWord opc nc rd ra rb rm mode).getLsbD 27 = nc := by
  simp only [fieldWord, BitVec.getLsbD_append]
  simp

@[simp] theorem fieldWord_reserved1 : (fieldWord opc nc rd ra rb rm mode).extractLsb' 24 3 = 0#3 := by
  ext i hi
  simp only [fieldWord, BitVec.getElem_extractLsb', BitVec.getLsbD_append]
  interval_cases i <;> simp

@[simp] theorem fieldWord_rd :
    (fieldWord opc nc rd ra rb rm mode).extractLsb' 20 4 = BitVec.ofFin (w := 4) rd := by
  ext i hi
  simp only [fieldWord, BitVec.getElem_extractLsb', BitVec.getLsbD_append]
  interval_cases i <;> simp

@[simp] theorem fieldWord_ra :
    (fieldWord opc nc rd ra rb rm mode).extractLsb' 16 4 = BitVec.ofFin (w := 4) ra := by
  ext i hi
  simp only [fieldWord, BitVec.getElem_extractLsb', BitVec.getLsbD_append]
  interval_cases i <;> simp

@[simp] theorem fieldWord_rb :
    (fieldWord opc nc rd ra rb rm mode).extractLsb' 12 4 = BitVec.ofFin (w := 4) rb := by
  ext i hi
  simp only [fieldWord, BitVec.getElem_extractLsb', BitVec.getLsbD_append]
  interval_cases i <;> simp

@[simp] theorem fieldWord_rm :
    (fieldWord opc nc rd ra rb rm mode).extractLsb' 8 4 = BitVec.ofFin (w := 4) rm := by
  ext i hi
  simp only [fieldWord, BitVec.getElem_extractLsb', BitVec.getLsbD_append]
  interval_cases i <;> simp

@[simp] theorem fieldWord_reserved2 : (fieldWord opc nc rd ra rb rm mode).extractLsb' 2 6 = 0#6 := by
  ext i hi
  simp only [fieldWord, BitVec.getElem_extractLsb', BitVec.getLsbD_append]
  interval_cases i <;> simp

@[simp] theorem fieldWord_mode : (fieldWord opc nc rd ra rb rm mode).extractLsb' 0 2 = mode := by
  ext i hi
  simp only [fieldWord, BitVec.getElem_extractLsb', BitVec.getLsbD_append]
  interval_cases i <;> simp

/-- A register index survives its four bits. -/
@[simp] theorem regField_of_extract {w : InstrWord} {lo : Nat} {r : Reg}
    (h : w.extractLsb' lo 4 = BitVec.ofFin (w := 4) r) : regField w lo = r := by
  simp only [regField, h]

@[simp] theorem fieldWord_bit27 : (fieldWord opc nc rd ra rb rm mode)[27] = nc := by
  simpa using fieldWord_noCount opc nc rd ra rb rm mode

/-- Two words with the same fields are the same word. -/
theorem word_ext {v w : InstrWord} (opc : v.extractLsb' 28 4 = w.extractLsb' 28 4)
    (nc : v.extractLsb' 27 1 = w.extractLsb' 27 1) (res1 : v.extractLsb' 24 3 = w.extractLsb' 24 3)
    (rd : v.extractLsb' 20 4 = w.extractLsb' 20 4) (ra : v.extractLsb' 16 4 = w.extractLsb' 16 4)
    (rb : v.extractLsb' 12 4 = w.extractLsb' 12 4) (rm : v.extractLsb' 8 4 = w.extractLsb' 8 4)
    (res2 : v.extractLsb' 2 6 = w.extractLsb' 2 6) (mode : v.extractLsb' 0 2 = w.extractLsb' 0 2) : v = w := by
  have parts (x : InstrWord) : x = x.extractLsb' 28 4 ++ x.extractLsb' 27 1 ++ x.extractLsb' 24 3
      ++ x.extractLsb' 20 4 ++ x.extractLsb' 16 4 ++ x.extractLsb' 12 4 ++ x.extractLsb' 8 4 ++ x.extractLsb' 2 6
      ++ x.extractLsb' 0 2 := by
    apply BitVec.eq_of_getLsbD_eq
    intro i hi
    simp only [BitVec.getLsbD_append]
    interval_cases i <;> simp
  rw [parts v, parts w, opc, nc, res1, rd, ra, rb, rm, res2, mode]

/-- A row's test, field by field (R100, R103). -/
theorem mask_eq_iff (w mask bits : InstrWord) : w &&& mask = bits ↔
    w.extractLsb' 28 4 &&& mask.extractLsb' 28 4 = bits.extractLsb' 28 4 ∧
    w.extractLsb' 27 1 &&& mask.extractLsb' 27 1 = bits.extractLsb' 27 1 ∧
    w.extractLsb' 24 3 &&& mask.extractLsb' 24 3 = bits.extractLsb' 24 3 ∧
    w.extractLsb' 20 4 &&& mask.extractLsb' 20 4 = bits.extractLsb' 20 4 ∧
    w.extractLsb' 16 4 &&& mask.extractLsb' 16 4 = bits.extractLsb' 16 4 ∧
    w.extractLsb' 12 4 &&& mask.extractLsb' 12 4 = bits.extractLsb' 12 4 ∧
    w.extractLsb' 8 4 &&& mask.extractLsb' 8 4 = bits.extractLsb' 8 4 ∧
    w.extractLsb' 2 6 &&& mask.extractLsb' 2 6 = bits.extractLsb' 2 6 ∧
    w.extractLsb' 0 2 &&& mask.extractLsb' 0 2 = bits.extractLsb' 0 2 := by
  constructor
  · rintro rfl
    simp only [BitVec.extractLsb'_and, and_self]
  · rintro ⟨a, b, c, d, e, f, g, h, i⟩
    apply word_ext <;> rw [BitVec.extractLsb'_and] <;> assumption

/-- The one-bit field `NC` and its bit. -/
theorem noCount_field (w : InstrWord) : w.extractLsb' 27 1 = BitVec.ofBool (w.getLsbD 27) := by
  ext i hi
  have : i = 0 := by omega
  subst this
  simp

@[simp] theorem fieldWord_noCount_field :
    (fieldWord opc nc rd ra rb rm mode).extractLsb' 27 1 = BitVec.ofBool nc := by
  rw [noCount_field, fieldWord_noCount]

@[simp] theorem ofFin_regField (w : InstrWord) (lo : Nat) :
    BitVec.ofFin (w := 4) (regField w lo) = w.extractLsb' lo 4 := rfl

/-- A word whose reserved fields are 0 is the word of its fields. -/
theorem fieldWord_of_fields (w : InstrWord) (h1 : w.extractLsb' 24 3 = 0#3) (h2 : w.extractLsb' 2 6 = 0#6) :
    fieldWord (w.extractLsb' 28 4) (w.getLsbD 27) (regField w 20) (regField w 16) (regField w 12) (regField w 8)
      (w.extractLsb' 0 2) = w := by
  apply word_ext <;> simp [h1, h2, noCount_field]

end Sys2Proof
end

