-- ==== Sys2Proof/Laws/State.lean ====
section
/-! SUPPORT. What each update of the state does to each field. -/

namespace Sys2Proof.Machine

@[simp] theorem setReg_regs (s : State) (r : Reg) (v : Word) : (s.setReg r v).regs = s.regs.set r v := rfl
@[simp] theorem setReg_clock (s : State) (r : Reg) (v : Word) : (s.setReg r v).clock = s.clock := rfl
@[simp] theorem setReg_faultCycle (s : State) (r : Reg) (v : Word) : (s.setReg r v).faultCycle = s.faultCycle := rfl
@[simp] theorem setReg_faultBranch (s : State) (r : Reg) (v : Word) : (s.setReg r v).faultBranch = s.faultBranch := rfl
@[simp] theorem setReg_configBw (s : State) (r : Reg) (v : Word) : (s.setReg r v).configBw = s.configBw := rfl
@[simp] theorem setReg_configXbit (s : State) (r : Reg) (v : Word) : (s.setReg r v).configXbit = s.configXbit := rfl
@[simp] theorem setReg_phase (s : State) (r : Reg) (v : Word) : (s.setReg r v).phase = s.phase := rfl
@[simp] theorem setReg_faultFired (s : State) (r : Reg) (v : Word) : (s.setReg r v).faultFired = s.faultFired := rfl
@[simp] theorem setReg_faultDetected (s : State) (r : Reg) (v : Word) : (s.setReg r v).faultDetected = s.faultDetected := rfl
@[simp] theorem setReg_nonInv (s : State) (r : Reg) (v : Word) : (s.setReg r v).nonInv = s.nonInv := rfl
@[simp] theorem setReg_errIllegal (s : State) (r : Reg) (v : Word) : (s.setReg r v).errIllegal = s.errIllegal := rfl
@[simp] theorem setReg_errModZero (s : State) (r : Reg) (v : Word) : (s.setReg r v).errModZero = s.errModZero := rfl
@[simp] theorem setReg_errSeq (s : State) (r : Reg) (v : Word) : (s.setReg r v).errSeq = s.errSeq := rfl
@[simp] theorem setReg_errCsr (s : State) (r : Reg) (v : Word) : (s.setReg r v).errCsr = s.errCsr := rfl
@[simp] theorem setReg_signActive (s : State) (r : Reg) (v : Word) : (s.setReg r v).signActive = s.signActive := rfl
@[simp] theorem setReg_signMode (s : State) (r : Reg) (v : Word) : (s.setReg r v).signMode = s.signMode := rfl
@[simp] theorem setReg_faultInfo (s : State) (r : Reg) (v : Word) : (s.setReg r v).faultInfo = s.faultInfo := rfl
@[simp] theorem setReg_errInfo (s : State) (r : Reg) (v : Word) : (s.setReg r v).errInfo = s.errInfo := rfl
@[simp] theorem setReg_running (s : State) (r : Reg) (v : Word) : (s.setReg r v).running = s.running := rfl
@[simp] theorem setReg_pending (s : State) (r : Reg) (v : Word) : (s.setReg r v).pending = s.pending := rfl
@[simp] theorem setReg_replies (s : State) (r : Reg) (v : Word) : (s.setReg r v).replies = s.replies := rfl
@[simp] theorem setReg_draws (s : State) (r : Reg) (v : Word) : (s.setReg r v).draws = s.draws := rfl
@[simp] theorem setReg_busy (s : State) (r : Reg) (v : Word) : (s.setReg r v).busy = s.busy := rfl
@[simp] theorem setReg_bitLength (s : State) (r : Reg) (v : Word) : (s.setReg r v).bitLength = s.bitLength := rfl
@[simp] theorem setReg_scanWidth (s : State) (r : Reg) (v : Word) : (s.setReg r v).scanWidth = s.scanWidth := rfl

@[simp] theorem enterPhase_regs (s : State) (p : Phase) : (s.enterPhase p).regs = s.regs := rfl
@[simp] theorem enterPhase_clock (s : State) (p : Phase) : (s.enterPhase p).clock = s.clock := rfl
@[simp] theorem enterPhase_faultCycle (s : State) (p : Phase) : (s.enterPhase p).faultCycle = s.faultCycle := rfl
@[simp] theorem enterPhase_faultBranch (s : State) (p : Phase) : (s.enterPhase p).faultBranch = s.faultBranch := rfl
@[simp] theorem enterPhase_configBw (s : State) (p : Phase) : (s.enterPhase p).configBw = s.configBw := rfl
@[simp] theorem enterPhase_configXbit (s : State) (p : Phase) : (s.enterPhase p).configXbit = s.configXbit := rfl
@[simp] theorem enterPhase_phase (s : State) (p : Phase) : (s.enterPhase p).phase = p := rfl
@[simp] theorem enterPhase_faultFired (s : State) (p : Phase) : (s.enterPhase p).faultFired = s.faultFired := rfl
@[simp] theorem enterPhase_faultDetected (s : State) (p : Phase) : (s.enterPhase p).faultDetected = s.faultDetected := rfl
@[simp] theorem enterPhase_nonInv (s : State) (p : Phase) : (s.enterPhase p).nonInv = s.nonInv := rfl
@[simp] theorem enterPhase_errIllegal (s : State) (p : Phase) : (s.enterPhase p).errIllegal = s.errIllegal := rfl
@[simp] theorem enterPhase_errModZero (s : State) (p : Phase) : (s.enterPhase p).errModZero = s.errModZero := rfl
@[simp] theorem enterPhase_errSeq (s : State) (p : Phase) : (s.enterPhase p).errSeq = s.errSeq := rfl
@[simp] theorem enterPhase_errCsr (s : State) (p : Phase) : (s.enterPhase p).errCsr = s.errCsr := rfl
@[simp] theorem enterPhase_signActive (s : State) (p : Phase) : (s.enterPhase p).signActive = s.signActive := rfl
@[simp] theorem enterPhase_signMode (s : State) (p : Phase) : (s.enterPhase p).signMode = s.signMode := rfl
@[simp] theorem enterPhase_faultInfo (s : State) (p : Phase) : (s.enterPhase p).faultInfo = s.faultInfo := rfl
@[simp] theorem enterPhase_errInfo (s : State) (p : Phase) : (s.enterPhase p).errInfo = s.errInfo := rfl
@[simp] theorem enterPhase_running (s : State) (p : Phase) : (s.enterPhase p).running = s.running := rfl
@[simp] theorem enterPhase_pending (s : State) (p : Phase) : (s.enterPhase p).pending = s.pending := rfl
@[simp] theorem enterPhase_replies (s : State) (p : Phase) : (s.enterPhase p).replies = s.replies := rfl
@[simp] theorem enterPhase_draws (s : State) (p : Phase) : (s.enterPhase p).draws = s.draws := rfl
@[simp] theorem enterPhase_reg (s : State) (p : Phase) (x : Reg) : (s.enterPhase p).reg x = s.reg x := rfl
@[simp] theorem enterPhase_val (s : State) (p : Phase) (x : Reg) : (s.enterPhase p).val x = s.val x := rfl
@[simp] theorem enterPhase_busy (s : State) (p : Phase) : (s.enterPhase p).busy = s.busy := rfl
@[simp] theorem enterPhase_bitLength (s : State) (p : Phase) : (s.enterPhase p).bitLength = s.bitLength := rfl
@[simp] theorem enterPhase_scanWidth (s : State) (p : Phase) : (s.enterPhase p).scanWidth = s.scanWidth := rfl

@[simp] theorem markNonInv_regs (s : State) : (s.markNonInv).regs = s.regs := rfl
@[simp] theorem markNonInv_clock (s : State) : (s.markNonInv).clock = s.clock := rfl
@[simp] theorem markNonInv_faultCycle (s : State) : (s.markNonInv).faultCycle = s.faultCycle := rfl
@[simp] theorem markNonInv_faultBranch (s : State) : (s.markNonInv).faultBranch = s.faultBranch := rfl
@[simp] theorem markNonInv_configBw (s : State) : (s.markNonInv).configBw = s.configBw := rfl
@[simp] theorem markNonInv_configXbit (s : State) : (s.markNonInv).configXbit = s.configXbit := rfl
@[simp] theorem markNonInv_phase (s : State) : (s.markNonInv).phase = s.phase := rfl
@[simp] theorem markNonInv_faultFired (s : State) : (s.markNonInv).faultFired = s.faultFired := rfl
@[simp] theorem markNonInv_faultDetected (s : State) : (s.markNonInv).faultDetected = s.faultDetected := rfl
@[simp] theorem markNonInv_nonInv (s : State) : (s.markNonInv).nonInv = true := rfl
@[simp] theorem markNonInv_errIllegal (s : State) : (s.markNonInv).errIllegal = s.errIllegal := rfl
@[simp] theorem markNonInv_errModZero (s : State) : (s.markNonInv).errModZero = s.errModZero := rfl
@[simp] theorem markNonInv_errSeq (s : State) : (s.markNonInv).errSeq = s.errSeq := rfl
@[simp] theorem markNonInv_errCsr (s : State) : (s.markNonInv).errCsr = s.errCsr := rfl
@[simp] theorem markNonInv_signActive (s : State) : (s.markNonInv).signActive = s.signActive := rfl
@[simp] theorem markNonInv_signMode (s : State) : (s.markNonInv).signMode = s.signMode := rfl
@[simp] theorem markNonInv_faultInfo (s : State) : (s.markNonInv).faultInfo = s.faultInfo := rfl
@[simp] theorem markNonInv_errInfo (s : State) : (s.markNonInv).errInfo = s.errInfo := rfl
@[simp] theorem markNonInv_running (s : State) : (s.markNonInv).running = s.running := rfl
@[simp] theorem markNonInv_pending (s : State) : (s.markNonInv).pending = s.pending := rfl
@[simp] theorem markNonInv_replies (s : State) : (s.markNonInv).replies = s.replies := rfl
@[simp] theorem markNonInv_draws (s : State) : (s.markNonInv).draws = s.draws := rfl
@[simp] theorem markNonInv_reg (s : State) (x : Reg) : (s.markNonInv).reg x = s.reg x := rfl
@[simp] theorem markNonInv_val (s : State) (x : Reg) : (s.markNonInv).val x = s.val x := rfl
@[simp] theorem markNonInv_busy (s : State) : (s.markNonInv).busy = s.busy := rfl
@[simp] theorem markNonInv_bitLength (s : State) : (s.markNonInv).bitLength = s.bitLength := rfl
@[simp] theorem markNonInv_scanWidth (s : State) : (s.markNonInv).scanWidth = s.scanWidth := rfl

@[simp] theorem markFaultDetected_regs (s : State) : (s.markFaultDetected).regs = s.regs := rfl
@[simp] theorem markFaultDetected_clock (s : State) : (s.markFaultDetected).clock = s.clock := rfl
@[simp] theorem markFaultDetected_faultCycle (s : State) : (s.markFaultDetected).faultCycle = s.faultCycle := rfl
@[simp] theorem markFaultDetected_faultBranch (s : State) : (s.markFaultDetected).faultBranch = s.faultBranch := rfl
@[simp] theorem markFaultDetected_configBw (s : State) : (s.markFaultDetected).configBw = s.configBw := rfl
@[simp] theorem markFaultDetected_configXbit (s : State) : (s.markFaultDetected).configXbit = s.configXbit := rfl
@[simp] theorem markFaultDetected_phase (s : State) : (s.markFaultDetected).phase = s.phase := rfl
@[simp] theorem markFaultDetected_faultFired (s : State) : (s.markFaultDetected).faultFired = s.faultFired := rfl
@[simp] theorem markFaultDetected_faultDetected (s : State) : (s.markFaultDetected).faultDetected = true := rfl
@[simp] theorem markFaultDetected_nonInv (s : State) : (s.markFaultDetected).nonInv = s.nonInv := rfl
@[simp] theorem markFaultDetected_errIllegal (s : State) : (s.markFaultDetected).errIllegal = s.errIllegal := rfl
@[simp] theorem markFaultDetected_errModZero (s : State) : (s.markFaultDetected).errModZero = s.errModZero := rfl
@[simp] theorem markFaultDetected_errSeq (s : State) : (s.markFaultDetected).errSeq = s.errSeq := rfl
@[simp] theorem markFaultDetected_errCsr (s : State) : (s.markFaultDetected).errCsr = s.errCsr := rfl
@[simp] theorem markFaultDetected_signActive (s : State) : (s.markFaultDetected).signActive = s.signActive := rfl
@[simp] theorem markFaultDetected_signMode (s : State) : (s.markFaultDetected).signMode = s.signMode := rfl
@[simp] theorem markFaultDetected_faultInfo (s : State) : (s.markFaultDetected).faultInfo = s.faultInfo := rfl
@[simp] theorem markFaultDetected_errInfo (s : State) : (s.markFaultDetected).errInfo = s.errInfo := rfl
@[simp] theorem markFaultDetected_running (s : State) : (s.markFaultDetected).running = s.running := rfl
@[simp] theorem markFaultDetected_pending (s : State) : (s.markFaultDetected).pending = s.pending := rfl
@[simp] theorem markFaultDetected_replies (s : State) : (s.markFaultDetected).replies = s.replies := rfl
@[simp] theorem markFaultDetected_draws (s : State) : (s.markFaultDetected).draws = s.draws := rfl
@[simp] theorem markFaultDetected_reg (s : State) (x : Reg) : (s.markFaultDetected).reg x = s.reg x := rfl
@[simp] theorem markFaultDetected_val (s : State) (x : Reg) : (s.markFaultDetected).val x = s.val x := rfl
@[simp] theorem markFaultDetected_busy (s : State) : (s.markFaultDetected).busy = s.busy := rfl
@[simp] theorem markFaultDetected_bitLength (s : State) : (s.markFaultDetected).bitLength = s.bitLength := rfl
@[simp] theorem markFaultDetected_scanWidth (s : State) : (s.markFaultDetected).scanWidth = s.scanWidth := rfl

@[simp] theorem markSign_regs (s : State) (m : SignMode) : (s.markSign m).regs = s.regs := rfl
@[simp] theorem markSign_clock (s : State) (m : SignMode) : (s.markSign m).clock = s.clock := rfl
@[simp] theorem markSign_faultCycle (s : State) (m : SignMode) : (s.markSign m).faultCycle = s.faultCycle := rfl
@[simp] theorem markSign_faultBranch (s : State) (m : SignMode) : (s.markSign m).faultBranch = s.faultBranch := rfl
@[simp] theorem markSign_configBw (s : State) (m : SignMode) : (s.markSign m).configBw = s.configBw := rfl
@[simp] theorem markSign_configXbit (s : State) (m : SignMode) : (s.markSign m).configXbit = s.configXbit := rfl
@[simp] theorem markSign_phase (s : State) (m : SignMode) : (s.markSign m).phase = s.phase := rfl
@[simp] theorem markSign_faultFired (s : State) (m : SignMode) : (s.markSign m).faultFired = s.faultFired := rfl
@[simp] theorem markSign_faultDetected (s : State) (m : SignMode) : (s.markSign m).faultDetected = s.faultDetected := rfl
@[simp] theorem markSign_nonInv (s : State) (m : SignMode) : (s.markSign m).nonInv = s.nonInv := rfl
@[simp] theorem markSign_errIllegal (s : State) (m : SignMode) : (s.markSign m).errIllegal = s.errIllegal := rfl
@[simp] theorem markSign_errModZero (s : State) (m : SignMode) : (s.markSign m).errModZero = s.errModZero := rfl
@[simp] theorem markSign_errSeq (s : State) (m : SignMode) : (s.markSign m).errSeq = s.errSeq := rfl
@[simp] theorem markSign_errCsr (s : State) (m : SignMode) : (s.markSign m).errCsr = s.errCsr := rfl
@[simp] theorem markSign_signActive (s : State) (m : SignMode) : (s.markSign m).signActive = true := rfl
@[simp] theorem markSign_signMode (s : State) (m : SignMode) : (s.markSign m).signMode = m := rfl
@[simp] theorem markSign_faultInfo (s : State) (m : SignMode) : (s.markSign m).faultInfo = s.faultInfo := rfl
@[simp] theorem markSign_errInfo (s : State) (m : SignMode) : (s.markSign m).errInfo = s.errInfo := rfl
@[simp] theorem markSign_running (s : State) (m : SignMode) : (s.markSign m).running = s.running := rfl
@[simp] theorem markSign_pending (s : State) (m : SignMode) : (s.markSign m).pending = s.pending := rfl
@[simp] theorem markSign_replies (s : State) (m : SignMode) : (s.markSign m).replies = s.replies := rfl
@[simp] theorem markSign_draws (s : State) (m : SignMode) : (s.markSign m).draws = s.draws := rfl
@[simp] theorem markSign_reg (s : State) (m : SignMode) (x : Reg) : (s.markSign m).reg x = s.reg x := rfl
@[simp] theorem markSign_val (s : State) (m : SignMode) (x : Reg) : (s.markSign m).val x = s.val x := rfl
@[simp] theorem markSign_busy (s : State) (m : SignMode) : (s.markSign m).busy = s.busy := rfl
@[simp] theorem markSign_bitLength (s : State) (m : SignMode) : (s.markSign m).bitLength = s.bitLength := rfl
@[simp] theorem markSign_scanWidth (s : State) (m : SignMode) : (s.markSign m).scanWidth = s.scanWidth := rfl

@[simp] theorem startRunning_regs (s : State) (c : MacroContext) : (s.startRunning c).regs = s.regs := rfl
@[simp] theorem startRunning_clock (s : State) (c : MacroContext) : (s.startRunning c).clock = s.clock := rfl
@[simp] theorem startRunning_faultCycle (s : State) (c : MacroContext) : (s.startRunning c).faultCycle = s.faultCycle := rfl
@[simp] theorem startRunning_faultBranch (s : State) (c : MacroContext) : (s.startRunning c).faultBranch = s.faultBranch := rfl
@[simp] theorem startRunning_configBw (s : State) (c : MacroContext) : (s.startRunning c).configBw = s.configBw := rfl
@[simp] theorem startRunning_configXbit (s : State) (c : MacroContext) : (s.startRunning c).configXbit = s.configXbit := rfl
@[simp] theorem startRunning_phase (s : State) (c : MacroContext) : (s.startRunning c).phase = s.phase := rfl
@[simp] theorem startRunning_faultFired (s : State) (c : MacroContext) : (s.startRunning c).faultFired = s.faultFired := rfl
@[simp] theorem startRunning_faultDetected (s : State) (c : MacroContext) : (s.startRunning c).faultDetected = s.faultDetected := rfl
@[simp] theorem startRunning_nonInv (s : State) (c : MacroContext) : (s.startRunning c).nonInv = s.nonInv := rfl
@[simp] theorem startRunning_errIllegal (s : State) (c : MacroContext) : (s.startRunning c).errIllegal = s.errIllegal := rfl
@[simp] theorem startRunning_errModZero (s : State) (c : MacroContext) : (s.startRunning c).errModZero = s.errModZero := rfl
@[simp] theorem startRunning_errSeq (s : State) (c : MacroContext) : (s.startRunning c).errSeq = s.errSeq := rfl
@[simp] theorem startRunning_errCsr (s : State) (c : MacroContext) : (s.startRunning c).errCsr = s.errCsr := rfl
@[simp] theorem startRunning_signActive (s : State) (c : MacroContext) : (s.startRunning c).signActive = s.signActive := rfl
@[simp] theorem startRunning_signMode (s : State) (c : MacroContext) : (s.startRunning c).signMode = s.signMode := rfl
@[simp] theorem startRunning_faultInfo (s : State) (c : MacroContext) : (s.startRunning c).faultInfo = s.faultInfo := rfl
@[simp] theorem startRunning_errInfo (s : State) (c : MacroContext) : (s.startRunning c).errInfo = s.errInfo := rfl
@[simp] theorem startRunning_running (s : State) (c : MacroContext) : (s.startRunning c).running = some ⟨c, 0⟩ := rfl
@[simp] theorem startRunning_pending (s : State) (c : MacroContext) : (s.startRunning c).pending = s.pending := rfl
@[simp] theorem startRunning_replies (s : State) (c : MacroContext) : (s.startRunning c).replies = s.replies := rfl
@[simp] theorem startRunning_draws (s : State) (c : MacroContext) : (s.startRunning c).draws = s.draws := rfl
@[simp] theorem startRunning_reg (s : State) (c : MacroContext) (x : Reg) : (s.startRunning c).reg x = s.reg x := rfl
@[simp] theorem startRunning_val (s : State) (c : MacroContext) (x : Reg) : (s.startRunning c).val x = s.val x := rfl
@[simp] theorem startRunning_bitLength (s : State) (c : MacroContext) : (s.startRunning c).bitLength = s.bitLength := rfl
@[simp] theorem startRunning_scanWidth (s : State) (c : MacroContext) : (s.startRunning c).scanWidth = s.scanWidth := rfl

@[simp] theorem continueAt_regs (s : State) (c : MacroContext) (n : Nat) : (s.continueAt c n).regs = s.regs := rfl
@[simp] theorem continueAt_clock (s : State) (c : MacroContext) (n : Nat) : (s.continueAt c n).clock = s.clock := rfl
@[simp] theorem continueAt_faultCycle (s : State) (c : MacroContext) (n : Nat) : (s.continueAt c n).faultCycle = s.faultCycle := rfl
@[simp] theorem continueAt_faultBranch (s : State) (c : MacroContext) (n : Nat) : (s.continueAt c n).faultBranch = s.faultBranch := rfl
@[simp] theorem continueAt_configBw (s : State) (c : MacroContext) (n : Nat) : (s.continueAt c n).configBw = s.configBw := rfl
@[simp] theorem continueAt_configXbit (s : State) (c : MacroContext) (n : Nat) : (s.continueAt c n).configXbit = s.configXbit := rfl
@[simp] theorem continueAt_phase (s : State) (c : MacroContext) (n : Nat) : (s.continueAt c n).phase = s.phase := rfl
@[simp] theorem continueAt_faultFired (s : State) (c : MacroContext) (n : Nat) : (s.continueAt c n).faultFired = s.faultFired := rfl
@[simp] theorem continueAt_faultDetected (s : State) (c : MacroContext) (n : Nat) : (s.continueAt c n).faultDetected = s.faultDetected := rfl
@[simp] theorem continueAt_nonInv (s : State) (c : MacroContext) (n : Nat) : (s.continueAt c n).nonInv = s.nonInv := rfl
@[simp] theorem continueAt_errIllegal (s : State) (c : MacroContext) (n : Nat) : (s.continueAt c n).errIllegal = s.errIllegal := rfl
@[simp] theorem continueAt_errModZero (s : State) (c : MacroContext) (n : Nat) : (s.continueAt c n).errModZero = s.errModZero := rfl
@[simp] theorem continueAt_errSeq (s : State) (c : MacroContext) (n : Nat) : (s.continueAt c n).errSeq = s.errSeq := rfl
@[simp] theorem continueAt_errCsr (s : State) (c : MacroContext) (n : Nat) : (s.continueAt c n).errCsr = s.errCsr := rfl
@[simp] theorem continueAt_signActive (s : State) (c : MacroContext) (n : Nat) : (s.continueAt c n).signActive = s.signActive := rfl
@[simp] theorem continueAt_signMode (s : State) (c : MacroContext) (n : Nat) : (s.continueAt c n).signMode = s.signMode := rfl
@[simp] theorem continueAt_faultInfo (s : State) (c : MacroContext) (n : Nat) : (s.continueAt c n).faultInfo = s.faultInfo := rfl
@[simp] theorem continueAt_errInfo (s : State) (c : MacroContext) (n : Nat) : (s.continueAt c n).errInfo = s.errInfo := rfl
@[simp] theorem continueAt_running (s : State) (c : MacroContext) (n : Nat) : (s.continueAt c n).running = some ⟨c, n⟩ := rfl
@[simp] theorem continueAt_pending (s : State) (c : MacroContext) (n : Nat) : (s.continueAt c n).pending = s.pending := rfl
@[simp] theorem continueAt_replies (s : State) (c : MacroContext) (n : Nat) : (s.continueAt c n).replies = s.replies := rfl
@[simp] theorem continueAt_draws (s : State) (c : MacroContext) (n : Nat) : (s.continueAt c n).draws = s.draws := rfl
@[simp] theorem continueAt_reg (s : State) (c : MacroContext) (n : Nat) (x : Reg) : (s.continueAt c n).reg x = s.reg x := rfl
@[simp] theorem continueAt_val (s : State) (c : MacroContext) (n : Nat) (x : Reg) : (s.continueAt c n).val x = s.val x := rfl
@[simp] theorem continueAt_bitLength (s : State) (c : MacroContext) (n : Nat) : (s.continueAt c n).bitLength = s.bitLength := rfl
@[simp] theorem continueAt_scanWidth (s : State) (c : MacroContext) (n : Nat) : (s.continueAt c n).scanWidth = s.scanWidth := rfl

@[simp] theorem stopRunning_regs (s : State) : (s.stopRunning).regs = s.regs := rfl
@[simp] theorem stopRunning_clock (s : State) : (s.stopRunning).clock = s.clock := rfl
@[simp] theorem stopRunning_faultCycle (s : State) : (s.stopRunning).faultCycle = s.faultCycle := rfl
@[simp] theorem stopRunning_faultBranch (s : State) : (s.stopRunning).faultBranch = s.faultBranch := rfl
@[simp] theorem stopRunning_configBw (s : State) : (s.stopRunning).configBw = s.configBw := rfl
@[simp] theorem stopRunning_configXbit (s : State) : (s.stopRunning).configXbit = s.configXbit := rfl
@[simp] theorem stopRunning_phase (s : State) : (s.stopRunning).phase = s.phase := rfl
@[simp] theorem stopRunning_faultFired (s : State) : (s.stopRunning).faultFired = s.faultFired := rfl
@[simp] theorem stopRunning_faultDetected (s : State) : (s.stopRunning).faultDetected = s.faultDetected := rfl
@[simp] theorem stopRunning_nonInv (s : State) : (s.stopRunning).nonInv = s.nonInv := rfl
@[simp] theorem stopRunning_errIllegal (s : State) : (s.stopRunning).errIllegal = s.errIllegal := rfl
@[simp] theorem stopRunning_errModZero (s : State) : (s.stopRunning).errModZero = s.errModZero := rfl
@[simp] theorem stopRunning_errSeq (s : State) : (s.stopRunning).errSeq = s.errSeq := rfl
@[simp] theorem stopRunning_errCsr (s : State) : (s.stopRunning).errCsr = s.errCsr := rfl
@[simp] theorem stopRunning_signActive (s : State) : (s.stopRunning).signActive = s.signActive := rfl
@[simp] theorem stopRunning_signMode (s : State) : (s.stopRunning).signMode = s.signMode := rfl
@[simp] theorem stopRunning_faultInfo (s : State) : (s.stopRunning).faultInfo = s.faultInfo := rfl
@[simp] theorem stopRunning_errInfo (s : State) : (s.stopRunning).errInfo = s.errInfo := rfl
@[simp] theorem stopRunning_running (s : State) : (s.stopRunning).running = none := rfl
@[simp] theorem stopRunning_pending (s : State) : (s.stopRunning).pending = s.pending := rfl
@[simp] theorem stopRunning_replies (s : State) : (s.stopRunning).replies = s.replies := rfl
@[simp] theorem stopRunning_draws (s : State) : (s.stopRunning).draws = s.draws := rfl
@[simp] theorem stopRunning_reg (s : State) (x : Reg) : (s.stopRunning).reg x = s.reg x := rfl
@[simp] theorem stopRunning_val (s : State) (x : Reg) : (s.stopRunning).val x = s.val x := rfl
@[simp] theorem stopRunning_bitLength (s : State) : (s.stopRunning).bitLength = s.bitLength := rfl
@[simp] theorem stopRunning_scanWidth (s : State) : (s.stopRunning).scanWidth = s.scanWidth := rfl

@[simp] theorem advanceClock_regs (s : State) : (s.advanceClock).regs = s.regs := rfl
@[simp] theorem advanceClock_clock (s : State) : (s.advanceClock).clock = s.clock + 1#64 := rfl
@[simp] theorem advanceClock_faultCycle (s : State) : (s.advanceClock).faultCycle = s.faultCycle := rfl
@[simp] theorem advanceClock_faultBranch (s : State) : (s.advanceClock).faultBranch = s.faultBranch := rfl
@[simp] theorem advanceClock_configBw (s : State) : (s.advanceClock).configBw = s.configBw := rfl
@[simp] theorem advanceClock_configXbit (s : State) : (s.advanceClock).configXbit = s.configXbit := rfl
@[simp] theorem advanceClock_phase (s : State) : (s.advanceClock).phase = s.phase := rfl
@[simp] theorem advanceClock_faultFired (s : State) : (s.advanceClock).faultFired = s.faultFired := rfl
@[simp] theorem advanceClock_faultDetected (s : State) : (s.advanceClock).faultDetected = s.faultDetected := rfl
@[simp] theorem advanceClock_nonInv (s : State) : (s.advanceClock).nonInv = s.nonInv := rfl
@[simp] theorem advanceClock_errIllegal (s : State) : (s.advanceClock).errIllegal = s.errIllegal := rfl
@[simp] theorem advanceClock_errModZero (s : State) : (s.advanceClock).errModZero = s.errModZero := rfl
@[simp] theorem advanceClock_errSeq (s : State) : (s.advanceClock).errSeq = s.errSeq := rfl
@[simp] theorem advanceClock_errCsr (s : State) : (s.advanceClock).errCsr = s.errCsr := rfl
@[simp] theorem advanceClock_signActive (s : State) : (s.advanceClock).signActive = s.signActive := rfl
@[simp] theorem advanceClock_signMode (s : State) : (s.advanceClock).signMode = s.signMode := rfl
@[simp] theorem advanceClock_faultInfo (s : State) : (s.advanceClock).faultInfo = s.faultInfo := rfl
@[simp] theorem advanceClock_errInfo (s : State) : (s.advanceClock).errInfo = s.errInfo := rfl
@[simp] theorem advanceClock_running (s : State) : (s.advanceClock).running = s.running := rfl
@[simp] theorem advanceClock_pending (s : State) : (s.advanceClock).pending = s.pending := rfl
@[simp] theorem advanceClock_replies (s : State) : (s.advanceClock).replies = s.replies := rfl
@[simp] theorem advanceClock_draws (s : State) : (s.advanceClock).draws = s.draws := rfl
@[simp] theorem advanceClock_reg (s : State) (x : Reg) : (s.advanceClock).reg x = s.reg x := rfl
@[simp] theorem advanceClock_val (s : State) (x : Reg) : (s.advanceClock).val x = s.val x := rfl
@[simp] theorem advanceClock_busy (s : State) : (s.advanceClock).busy = s.busy := rfl
@[simp] theorem advanceClock_bitLength (s : State) : (s.advanceClock).bitLength = s.bitLength := rfl
@[simp] theorem advanceClock_scanWidth (s : State) : (s.advanceClock).scanWidth = s.scanWidth := rfl

@[simp] theorem injectBit_regs (s : State) (r : Reg) (b : Nat) : (s.injectBit r b).regs = s.regs.set r (s.reg r ^^^ Word.ofNat (2 ^ b)) := rfl
@[simp] theorem injectBit_clock (s : State) (r : Reg) (b : Nat) : (s.injectBit r b).clock = s.clock := rfl
@[simp] theorem injectBit_faultCycle (s : State) (r : Reg) (b : Nat) : (s.injectBit r b).faultCycle = s.faultCycle := rfl
@[simp] theorem injectBit_faultBranch (s : State) (r : Reg) (b : Nat) : (s.injectBit r b).faultBranch = s.faultBranch := rfl
@[simp] theorem injectBit_configBw (s : State) (r : Reg) (b : Nat) : (s.injectBit r b).configBw = s.configBw := rfl
@[simp] theorem injectBit_configXbit (s : State) (r : Reg) (b : Nat) : (s.injectBit r b).configXbit = s.configXbit := rfl
@[simp] theorem injectBit_phase (s : State) (r : Reg) (b : Nat) : (s.injectBit r b).phase = s.phase := rfl
@[simp] theorem injectBit_faultFired (s : State) (r : Reg) (b : Nat) : (s.injectBit r b).faultFired = true := rfl
@[simp] theorem injectBit_faultDetected (s : State) (r : Reg) (b : Nat) : (s.injectBit r b).faultDetected = s.faultDetected := rfl
@[simp] theorem injectBit_nonInv (s : State) (r : Reg) (b : Nat) : (s.injectBit r b).nonInv = s.nonInv := rfl
@[simp] theorem injectBit_errIllegal (s : State) (r : Reg) (b : Nat) : (s.injectBit r b).errIllegal = s.errIllegal := rfl
@[simp] theorem injectBit_errModZero (s : State) (r : Reg) (b : Nat) : (s.injectBit r b).errModZero = s.errModZero := rfl
@[simp] theorem injectBit_errSeq (s : State) (r : Reg) (b : Nat) : (s.injectBit r b).errSeq = s.errSeq := rfl
@[simp] theorem injectBit_errCsr (s : State) (r : Reg) (b : Nat) : (s.injectBit r b).errCsr = s.errCsr := rfl
@[simp] theorem injectBit_signActive (s : State) (r : Reg) (b : Nat) : (s.injectBit r b).signActive = s.signActive := rfl
@[simp] theorem injectBit_signMode (s : State) (r : Reg) (b : Nat) : (s.injectBit r b).signMode = s.signMode := rfl
@[simp] theorem injectBit_faultInfo (s : State) (r : Reg) (b : Nat) : (s.injectBit r b).faultInfo = ⟨BitVec.ofNat 10 b, r⟩ := rfl
@[simp] theorem injectBit_errInfo (s : State) (r : Reg) (b : Nat) : (s.injectBit r b).errInfo = s.errInfo := rfl
@[simp] theorem injectBit_running (s : State) (r : Reg) (b : Nat) : (s.injectBit r b).running = s.running := rfl
@[simp] theorem injectBit_pending (s : State) (r : Reg) (b : Nat) : (s.injectBit r b).pending = s.pending := rfl
@[simp] theorem injectBit_replies (s : State) (r : Reg) (b : Nat) : (s.injectBit r b).replies = s.replies := rfl
@[simp] theorem injectBit_draws (s : State) (r : Reg) (b : Nat) : (s.injectBit r b).draws = s.draws + 1 := rfl
@[simp] theorem injectBit_busy (s : State) (r : Reg) (b : Nat) : (s.injectBit r b).busy = s.busy := rfl
@[simp] theorem injectBit_bitLength (s : State) (r : Reg) (b : Nat) : (s.injectBit r b).bitLength = s.bitLength := rfl
@[simp] theorem injectBit_scanWidth (s : State) (r : Reg) (b : Nat) : (s.injectBit r b).scanWidth = s.scanWidth := rfl

@[simp] theorem setFaultCycle_regs (s : State) (v : CsrWord) : (s.setFaultCycle v).regs = s.regs := rfl
@[simp] theorem setFaultCycle_clock (s : State) (v : CsrWord) : (s.setFaultCycle v).clock = s.clock := rfl
@[simp] theorem setFaultCycle_faultCycle (s : State) (v : CsrWord) : (s.setFaultCycle v).faultCycle = v := rfl
@[simp] theorem setFaultCycle_faultBranch (s : State) (v : CsrWord) : (s.setFaultCycle v).faultBranch = s.faultBranch := rfl
@[simp] theorem setFaultCycle_configBw (s : State) (v : CsrWord) : (s.setFaultCycle v).configBw = s.configBw := rfl
@[simp] theorem setFaultCycle_configXbit (s : State) (v : CsrWord) : (s.setFaultCycle v).configXbit = s.configXbit := rfl
@[simp] theorem setFaultCycle_phase (s : State) (v : CsrWord) : (s.setFaultCycle v).phase = s.phase := rfl
@[simp] theorem setFaultCycle_faultFired (s : State) (v : CsrWord) : (s.setFaultCycle v).faultFired = s.faultFired := rfl
@[simp] theorem setFaultCycle_faultDetected (s : State) (v : CsrWord) : (s.setFaultCycle v).faultDetected = s.faultDetected := rfl
@[simp] theorem setFaultCycle_nonInv (s : State) (v : CsrWord) : (s.setFaultCycle v).nonInv = s.nonInv := rfl
@[simp] theorem setFaultCycle_errIllegal (s : State) (v : CsrWord) : (s.setFaultCycle v).errIllegal = s.errIllegal := rfl
@[simp] theorem setFaultCycle_errModZero (s : State) (v : CsrWord) : (s.setFaultCycle v).errModZero = s.errModZero := rfl
@[simp] theorem setFaultCycle_errSeq (s : State) (v : CsrWord) : (s.setFaultCycle v).errSeq = s.errSeq := rfl
@[simp] theorem setFaultCycle_errCsr (s : State) (v : CsrWord) : (s.setFaultCycle v).errCsr = s.errCsr := rfl
@[simp] theorem setFaultCycle_signActive (s : State) (v : CsrWord) : (s.setFaultCycle v).signActive = s.signActive := rfl
@[simp] theorem setFaultCycle_signMode (s : State) (v : CsrWord) : (s.setFaultCycle v).signMode = s.signMode := rfl
@[simp] theorem setFaultCycle_faultInfo (s : State) (v : CsrWord) : (s.setFaultCycle v).faultInfo = s.faultInfo := rfl
@[simp] theorem setFaultCycle_errInfo (s : State) (v : CsrWord) : (s.setFaultCycle v).errInfo = s.errInfo := rfl
@[simp] theorem setFaultCycle_running (s : State) (v : CsrWord) : (s.setFaultCycle v).running = s.running := rfl
@[simp] theorem setFaultCycle_pending (s : State) (v : CsrWord) : (s.setFaultCycle v).pending = s.pending := rfl
@[simp] theorem setFaultCycle_replies (s : State) (v : CsrWord) : (s.setFaultCycle v).replies = s.replies := rfl
@[simp] theorem setFaultCycle_draws (s : State) (v : CsrWord) : (s.setFaultCycle v).draws = s.draws := rfl
@[simp] theorem setFaultCycle_reg (s : State) (v : CsrWord) (x : Reg) : (s.setFaultCycle v).reg x = s.reg x := rfl
@[simp] theorem setFaultCycle_val (s : State) (v : CsrWord) (x : Reg) : (s.setFaultCycle v).val x = s.val x := rfl
@[simp] theorem setFaultCycle_busy (s : State) (v : CsrWord) : (s.setFaultCycle v).busy = s.busy := rfl
@[simp] theorem setFaultCycle_bitLength (s : State) (v : CsrWord) : (s.setFaultCycle v).bitLength = s.bitLength := rfl
@[simp] theorem setFaultCycle_scanWidth (s : State) (v : CsrWord) : (s.setFaultCycle v).scanWidth = s.scanWidth := rfl

@[simp] theorem setFaultBranch_regs (s : State) (b : FaultBranch) : (s.setFaultBranch b).regs = s.regs := rfl
@[simp] theorem setFaultBranch_clock (s : State) (b : FaultBranch) : (s.setFaultBranch b).clock = s.clock := rfl
@[simp] theorem setFaultBranch_faultCycle (s : State) (b : FaultBranch) : (s.setFaultBranch b).faultCycle = s.faultCycle := rfl
@[simp] theorem setFaultBranch_faultBranch (s : State) (b : FaultBranch) : (s.setFaultBranch b).faultBranch = b := rfl
@[simp] theorem setFaultBranch_configBw (s : State) (b : FaultBranch) : (s.setFaultBranch b).configBw = s.configBw := rfl
@[simp] theorem setFaultBranch_configXbit (s : State) (b : FaultBranch) : (s.setFaultBranch b).configXbit = s.configXbit := rfl
@[simp] theorem setFaultBranch_phase (s : State) (b : FaultBranch) : (s.setFaultBranch b).phase = s.phase := rfl
@[simp] theorem setFaultBranch_faultFired (s : State) (b : FaultBranch) : (s.setFaultBranch b).faultFired = s.faultFired := rfl
@[simp] theorem setFaultBranch_faultDetected (s : State) (b : FaultBranch) : (s.setFaultBranch b).faultDetected = s.faultDetected := rfl
@[simp] theorem setFaultBranch_nonInv (s : State) (b : FaultBranch) : (s.setFaultBranch b).nonInv = s.nonInv := rfl
@[simp] theorem setFaultBranch_errIllegal (s : State) (b : FaultBranch) : (s.setFaultBranch b).errIllegal = s.errIllegal := rfl
@[simp] theorem setFaultBranch_errModZero (s : State) (b : FaultBranch) : (s.setFaultBranch b).errModZero = s.errModZero := rfl
@[simp] theorem setFaultBranch_errSeq (s : State) (b : FaultBranch) : (s.setFaultBranch b).errSeq = s.errSeq := rfl
@[simp] theorem setFaultBranch_errCsr (s : State) (b : FaultBranch) : (s.setFaultBranch b).errCsr = s.errCsr := rfl
@[simp] theorem setFaultBranch_signActive (s : State) (b : FaultBranch) : (s.setFaultBranch b).signActive = s.signActive := rfl
@[simp] theorem setFaultBranch_signMode (s : State) (b : FaultBranch) : (s.setFaultBranch b).signMode = s.signMode := rfl
@[simp] theorem setFaultBranch_faultInfo (s : State) (b : FaultBranch) : (s.setFaultBranch b).faultInfo = s.faultInfo := rfl
@[simp] theorem setFaultBranch_errInfo (s : State) (b : FaultBranch) : (s.setFaultBranch b).errInfo = s.errInfo := rfl
@[simp] theorem setFaultBranch_running (s : State) (b : FaultBranch) : (s.setFaultBranch b).running = s.running := rfl
@[simp] theorem setFaultBranch_pending (s : State) (b : FaultBranch) : (s.setFaultBranch b).pending = s.pending := rfl
@[simp] theorem setFaultBranch_replies (s : State) (b : FaultBranch) : (s.setFaultBranch b).replies = s.replies := rfl
@[simp] theorem setFaultBranch_draws (s : State) (b : FaultBranch) : (s.setFaultBranch b).draws = s.draws := rfl
@[simp] theorem setFaultBranch_reg (s : State) (b : FaultBranch) (x : Reg) : (s.setFaultBranch b).reg x = s.reg x := rfl
@[simp] theorem setFaultBranch_val (s : State) (b : FaultBranch) (x : Reg) : (s.setFaultBranch b).val x = s.val x := rfl
@[simp] theorem setFaultBranch_busy (s : State) (b : FaultBranch) : (s.setFaultBranch b).busy = s.busy := rfl
@[simp] theorem setFaultBranch_bitLength (s : State) (b : FaultBranch) : (s.setFaultBranch b).bitLength = s.bitLength := rfl
@[simp] theorem setFaultBranch_scanWidth (s : State) (b : FaultBranch) : (s.setFaultBranch b).scanWidth = s.scanWidth := rfl

@[simp] theorem setConfig_regs (s : State) (bw xbit : Bool) : (s.setConfig bw xbit).regs = s.regs := rfl
@[simp] theorem setConfig_clock (s : State) (bw xbit : Bool) : (s.setConfig bw xbit).clock = s.clock := rfl
@[simp] theorem setConfig_faultCycle (s : State) (bw xbit : Bool) : (s.setConfig bw xbit).faultCycle = s.faultCycle := rfl
@[simp] theorem setConfig_faultBranch (s : State) (bw xbit : Bool) : (s.setConfig bw xbit).faultBranch = s.faultBranch := rfl
@[simp] theorem setConfig_configBw (s : State) (bw xbit : Bool) : (s.setConfig bw xbit).configBw = bw := rfl
@[simp] theorem setConfig_configXbit (s : State) (bw xbit : Bool) : (s.setConfig bw xbit).configXbit = xbit := rfl
@[simp] theorem setConfig_phase (s : State) (bw xbit : Bool) : (s.setConfig bw xbit).phase = s.phase := rfl
@[simp] theorem setConfig_faultFired (s : State) (bw xbit : Bool) : (s.setConfig bw xbit).faultFired = s.faultFired := rfl
@[simp] theorem setConfig_faultDetected (s : State) (bw xbit : Bool) : (s.setConfig bw xbit).faultDetected = s.faultDetected := rfl
@[simp] theorem setConfig_nonInv (s : State) (bw xbit : Bool) : (s.setConfig bw xbit).nonInv = s.nonInv := rfl
@[simp] theorem setConfig_errIllegal (s : State) (bw xbit : Bool) : (s.setConfig bw xbit).errIllegal = s.errIllegal := rfl
@[simp] theorem setConfig_errModZero (s : State) (bw xbit : Bool) : (s.setConfig bw xbit).errModZero = s.errModZero := rfl
@[simp] theorem setConfig_errSeq (s : State) (bw xbit : Bool) : (s.setConfig bw xbit).errSeq = s.errSeq := rfl
@[simp] theorem setConfig_errCsr (s : State) (bw xbit : Bool) : (s.setConfig bw xbit).errCsr = s.errCsr := rfl
@[simp] theorem setConfig_signActive (s : State) (bw xbit : Bool) : (s.setConfig bw xbit).signActive = s.signActive := rfl
@[simp] theorem setConfig_signMode (s : State) (bw xbit : Bool) : (s.setConfig bw xbit).signMode = s.signMode := rfl
@[simp] theorem setConfig_faultInfo (s : State) (bw xbit : Bool) : (s.setConfig bw xbit).faultInfo = s.faultInfo := rfl
@[simp] theorem setConfig_errInfo (s : State) (bw xbit : Bool) : (s.setConfig bw xbit).errInfo = s.errInfo := rfl
@[simp] theorem setConfig_running (s : State) (bw xbit : Bool) : (s.setConfig bw xbit).running = s.running := rfl
@[simp] theorem setConfig_pending (s : State) (bw xbit : Bool) : (s.setConfig bw xbit).pending = s.pending := rfl
@[simp] theorem setConfig_replies (s : State) (bw xbit : Bool) : (s.setConfig bw xbit).replies = s.replies := rfl
@[simp] theorem setConfig_draws (s : State) (bw xbit : Bool) : (s.setConfig bw xbit).draws = s.draws := rfl
@[simp] theorem setConfig_reg (s : State) (bw xbit : Bool) (x : Reg) : (s.setConfig bw xbit).reg x = s.reg x := rfl
@[simp] theorem setConfig_val (s : State) (bw xbit : Bool) (x : Reg) : (s.setConfig bw xbit).val x = s.val x := rfl
@[simp] theorem setConfig_busy (s : State) (bw xbit : Bool) : (s.setConfig bw xbit).busy = s.busy := rfl

@[simp] theorem pushReply_regs (s : State) (q : Reply) : (s.pushReply q).regs = s.regs := rfl
@[simp] theorem pushReply_clock (s : State) (q : Reply) : (s.pushReply q).clock = s.clock := rfl
@[simp] theorem pushReply_faultCycle (s : State) (q : Reply) : (s.pushReply q).faultCycle = s.faultCycle := rfl
@[simp] theorem pushReply_faultBranch (s : State) (q : Reply) : (s.pushReply q).faultBranch = s.faultBranch := rfl
@[simp] theorem pushReply_configBw (s : State) (q : Reply) : (s.pushReply q).configBw = s.configBw := rfl
@[simp] theorem pushReply_configXbit (s : State) (q : Reply) : (s.pushReply q).configXbit = s.configXbit := rfl
@[simp] theorem pushReply_phase (s : State) (q : Reply) : (s.pushReply q).phase = s.phase := rfl
@[simp] theorem pushReply_faultFired (s : State) (q : Reply) : (s.pushReply q).faultFired = s.faultFired := rfl
@[simp] theorem pushReply_faultDetected (s : State) (q : Reply) : (s.pushReply q).faultDetected = s.faultDetected := rfl
@[simp] theorem pushReply_nonInv (s : State) (q : Reply) : (s.pushReply q).nonInv = s.nonInv := rfl
@[simp] theorem pushReply_errIllegal (s : State) (q : Reply) : (s.pushReply q).errIllegal = s.errIllegal := rfl
@[simp] theorem pushReply_errModZero (s : State) (q : Reply) : (s.pushReply q).errModZero = s.errModZero := rfl
@[simp] theorem pushReply_errSeq (s : State) (q : Reply) : (s.pushReply q).errSeq = s.errSeq := rfl
@[simp] theorem pushReply_errCsr (s : State) (q : Reply) : (s.pushReply q).errCsr = s.errCsr := rfl
@[simp] theorem pushReply_signActive (s : State) (q : Reply) : (s.pushReply q).signActive = s.signActive := rfl
@[simp] theorem pushReply_signMode (s : State) (q : Reply) : (s.pushReply q).signMode = s.signMode := rfl
@[simp] theorem pushReply_faultInfo (s : State) (q : Reply) : (s.pushReply q).faultInfo = s.faultInfo := rfl
@[simp] theorem pushReply_errInfo (s : State) (q : Reply) : (s.pushReply q).errInfo = s.errInfo := rfl
@[simp] theorem pushReply_running (s : State) (q : Reply) : (s.pushReply q).running = s.running := rfl
@[simp] theorem pushReply_pending (s : State) (q : Reply) : (s.pushReply q).pending = s.pending := rfl
@[simp] theorem pushReply_replies (s : State) (q : Reply) : (s.pushReply q).replies = s.replies ++ [q] := rfl
@[simp] theorem pushReply_draws (s : State) (q : Reply) : (s.pushReply q).draws = s.draws := rfl
@[simp] theorem pushReply_reg (s : State) (q : Reply) (x : Reg) : (s.pushReply q).reg x = s.reg x := rfl
@[simp] theorem pushReply_val (s : State) (q : Reply) (x : Reg) : (s.pushReply q).val x = s.val x := rfl
@[simp] theorem pushReply_busy (s : State) (q : Reply) : (s.pushReply q).busy = s.busy := rfl
@[simp] theorem pushReply_bitLength (s : State) (q : Reply) : (s.pushReply q).bitLength = s.bitLength := rfl
@[simp] theorem pushReply_scanWidth (s : State) (q : Reply) : (s.pushReply q).scanWidth = s.scanWidth := rfl

@[simp] theorem setPending_regs (s : State) (l : List PendingCommand) : (s.setPending l).regs = s.regs := rfl
@[simp] theorem setPending_clock (s : State) (l : List PendingCommand) : (s.setPending l).clock = s.clock := rfl
@[simp] theorem setPending_faultCycle (s : State) (l : List PendingCommand) : (s.setPending l).faultCycle = s.faultCycle := rfl
@[simp] theorem setPending_faultBranch (s : State) (l : List PendingCommand) : (s.setPending l).faultBranch = s.faultBranch := rfl
@[simp] theorem setPending_configBw (s : State) (l : List PendingCommand) : (s.setPending l).configBw = s.configBw := rfl
@[simp] theorem setPending_configXbit (s : State) (l : List PendingCommand) : (s.setPending l).configXbit = s.configXbit := rfl
@[simp] theorem setPending_phase (s : State) (l : List PendingCommand) : (s.setPending l).phase = s.phase := rfl
@[simp] theorem setPending_faultFired (s : State) (l : List PendingCommand) : (s.setPending l).faultFired = s.faultFired := rfl
@[simp] theorem setPending_faultDetected (s : State) (l : List PendingCommand) : (s.setPending l).faultDetected = s.faultDetected := rfl
@[simp] theorem setPending_nonInv (s : State) (l : List PendingCommand) : (s.setPending l).nonInv = s.nonInv := rfl
@[simp] theorem setPending_errIllegal (s : State) (l : List PendingCommand) : (s.setPending l).errIllegal = s.errIllegal := rfl
@[simp] theorem setPending_errModZero (s : State) (l : List PendingCommand) : (s.setPending l).errModZero = s.errModZero := rfl
@[simp] theorem setPending_errSeq (s : State) (l : List PendingCommand) : (s.setPending l).errSeq = s.errSeq := rfl
@[simp] theorem setPending_errCsr (s : State) (l : List PendingCommand) : (s.setPending l).errCsr = s.errCsr := rfl
@[simp] theorem setPending_signActive (s : State) (l : List PendingCommand) : (s.setPending l).signActive = s.signActive := rfl
@[simp] theorem setPending_signMode (s : State) (l : List PendingCommand) : (s.setPending l).signMode = s.signMode := rfl
@[simp] theorem setPending_faultInfo (s : State) (l : List PendingCommand) : (s.setPending l).faultInfo = s.faultInfo := rfl
@[simp] theorem setPending_errInfo (s : State) (l : List PendingCommand) : (s.setPending l).errInfo = s.errInfo := rfl
@[simp] theorem setPending_running (s : State) (l : List PendingCommand) : (s.setPending l).running = s.running := rfl
@[simp] theorem setPending_pending (s : State) (l : List PendingCommand) : (s.setPending l).pending = l := rfl
@[simp] theorem setPending_replies (s : State) (l : List PendingCommand) : (s.setPending l).replies = s.replies := rfl
@[simp] theorem setPending_draws (s : State) (l : List PendingCommand) : (s.setPending l).draws = s.draws := rfl
@[simp] theorem setPending_reg (s : State) (l : List PendingCommand) (x : Reg) : (s.setPending l).reg x = s.reg x := rfl
@[simp] theorem setPending_val (s : State) (l : List PendingCommand) (x : Reg) : (s.setPending l).val x = s.val x := rfl
@[simp] theorem setPending_busy (s : State) (l : List PendingCommand) : (s.setPending l).busy = s.busy := rfl
@[simp] theorem setPending_bitLength (s : State) (l : List PendingCommand) : (s.setPending l).bitLength = s.bitLength := rfl
@[simp] theorem setPending_scanWidth (s : State) (l : List PendingCommand) : (s.setPending l).scanWidth = s.scanWidth := rfl

@[simp] theorem startRunning_busy (s : State) (c : MacroContext) : (s.startRunning c).busy = true := rfl
@[simp] theorem continueAt_busy (s : State) (c : MacroContext) (n : Nat) : (s.continueAt c n).busy = true := rfl
@[simp] theorem stopRunning_busy (s : State) : s.stopRunning.busy = false := rfl

@[simp] theorem setReg_reg_same (s : State) (r : Reg) (v : Word) : (s.setReg r v).reg r = v := by
  simp [State.reg, State.setReg]

theorem setReg_reg_ne (s : State) (r x : Reg) (v : Word) (h : x ≠ r) : (s.setReg r v).reg x = s.reg x := by
  have : (r : Nat) ≠ (x : Nat) := fun e => h (Fin.ext e.symm)
  simp [State.reg, State.setReg, this]

@[simp] theorem injectBit_reg_same (s : State) (r : Reg) (b : Nat) :
    (s.injectBit r b).reg r = s.reg r ^^^ Word.ofNat (2 ^ b) :=
  setReg_reg_same s r _

theorem injectBit_reg_ne (s : State) (r x : Reg) (b : Nat) (h : x ≠ r) : (s.injectBit r b).reg x = s.reg x :=
  setReg_reg_ne s r x _ h

/-- `RESET` keeps the host's side and the model's own records, and nothing else. -/
theorem resetEngine_eq (s : State) :
    s.resetEngine = { State.reset with pending := s.pending, replies := s.replies, draws := s.draws } := rfl

end Sys2Proof.Machine
end

