-- ==== Sys2Proof/Laws/Ops.lean ====
section
/-! SUPPORT. Once for each shared operation: everything it can do. -/

namespace Sys2Proof.Machine

/-! ## Cycle completion and the fault -/

theorem gateOpen_iff (s : State) : s.gateOpen = true ↔ FaultGate s := by
  unfold State.gateOpen State.gateRestricted FaultGate
  cases s.busy <;> cases s.signActive <;> cases s.signMode <;> cases s.faultBranch <;> cases s.phase <;> decide

/-- The fire condition on the advanced clock is the spec's, read before the cycle completes (R134, R135). -/
theorem fires_advanceClock_iff (s : State) : s.advanceClock.fires = true ↔ FaultDue s := by
  have g : s.advanceClock.gateOpen = true ↔ FaultGate s := gateOpen_iff s.advanceClock
  simp only [State.fires, FaultDue, Bool.and_eq_true, bne_iff_ne, ne_eq, beq_iff_eq, Bool.not_eq_true',
    advanceClock_faultCycle, advanceClock_clock, advanceClock_faultFired, g, and_assoc]

theorem faultDue_setReg_iff (s : State) (r : Reg) (v : Word) : FaultDue (s.setReg r v) ↔ FaultDue s := Iff.rfl

theorem completeCycle_of_not_due {s : State} (rd : Reg) (h : ¬ FaultDue s) : s.completeCycle rd = s.advanceClock := by
  have : ¬ s.advanceClock.fires = true := fun f => h ((fires_advanceClock_iff s).mp f)
  simp [State.completeCycle, this]

theorem completeCycle_of_due {s : State} (rd : Reg) (h : FaultDue s) :
    s.completeCycle rd = s.advanceClock.injectBit rd s.faultDraw := by
  rw [State.completeCycle, if_pos ((fires_advanceClock_iff s).mpr h)]
  rfl

/-- The end of a primitive does what R131, R134 to R137 and R139 say of it. -/
theorem retire_retired (s : State) (nc : Bool) (rd : Reg) (v : Word) :
    Retired s (s.retire nc rd v) nc rd v.toNat := by
  cases nc with
  | true =>
    refine ⟨fun r h => setReg_reg_ne s rd r v h, ?_, ?_, ?_, ?_, ?_, ?_, ?_, ?_⟩
    all_goals simp [State.retire, SameConfig, SameErrors, SameSigning, SameControl, SameFaultRecord, State.val]
  | false =>
    have e : s.retire false rd v = (s.setReg rd v).completeCycle rd := rfl
    by_cases hd : FaultDue s
    · have hd' : FaultDue (s.setReg rd v) := hd
      rw [e, completeCycle_of_due rd hd']
      have hb : (s.setReg rd v).faultDraw < s.bitLength := faultDraw_lt (s.setReg rd v)
      have hw : (s.setReg rd v).faultDraw < 1024 := Nat.lt_of_lt_of_le hb (bitLength_le s)
      refine ⟨fun r h => ?_, ?_, ?_, ?_, ?_, ?_, ?_, ?_, fun _ _ => ⟨rfl, _, hb, ?_, rfl⟩⟩
      · rw [injectBit_reg_ne _ _ _ _ h]
        exact setReg_reg_ne s rd r v h
      all_goals first
        | (intro _ hn; exact absurd hd hn)
        | simp [SameConfig, SameErrors, SameSigning, SameControl, State.val, Word.toNat_flip v hw]
    · have hd' : ¬ FaultDue (s.setReg rd v) := hd
      rw [e, completeCycle_of_not_due rd hd']
      refine ⟨fun r h => setReg_reg_ne s rd r v h, ?_, ?_, ?_, ?_, ?_, ?_, ?_, fun _ h => absurd h hd⟩
      all_goals simp [SameConfig, SameErrors, SameSigning, SameControl, SameFaultRecord, State.val]

@[simp] theorem retire_nonInv (s : State) (nc : Bool) (rd : Reg) (v : Word) :
    (s.retire nc rd v).nonInv = s.nonInv := by
  cases nc
  · by_cases hd : FaultDue (s.setReg rd v)
    · simp [State.retire, completeCycle_of_due rd hd]
    · simp [State.retire, completeCycle_of_not_due rd hd]
  · simp [State.retire]

/-! ## Errors -/

/-- Taking an error does what R252 says of it. -/
theorem raiseError_errorTaken (s : State) (cause : ErrorCause) (info : BitVec 32) :
    ErrorTaken s (s.raiseError cause info) cause info := by
  have reg (t : State) (h : t.regs = s.regs) : SameRegs s t := fun r => by simp [State.reg, h]
  cases hc : s.errInfo.cause <;> cases cause <;>
    (constructor <;>
      simp [State.raiseError, State.markError, State.recordError, ErrorCause.halts, hc, SameConfig, SameFaultRecord,
        SameSigning]
     exact reg _ rfl)

/-! ## Primitives with a modulus -/

/-- A primitive with a modulus takes `MODZERO` or completes with its result (R131, R133). -/
theorem modular_cases (s : State) (i : Instr) (nc : Bool) (rd rm : Reg) (result : Nat → Nat)
    (hr : ∀ m, 0 < m → result m < m) :
    (s.val rm = 0 ∧ ErrorTaken s (s.modular i nc rd rm result) .modZero (encodeWord i)) ∨
    (s.val rm ≠ 0 ∧ Retired s (s.modular i nc rd rm result) nc rd (result (s.val rm)) ∧
      (s.modular i nc rd rm result).nonInv = s.nonInv) := by
  by_cases h : s.val rm = 0
  · left
    simp only [State.modular, h, if_true, true_and]
    exact raiseError_errorTaken s _ _
  · right
    have lt : result (s.val rm) < (s.reg rm).toNat := hr _ (Nat.pos_of_ne_zero h)
    have t := retire_retired s nc rd (Word.ofNat (result (s.val rm)))
    rw [Word.toNat_ofNat_of_lt lt] at t
    simp only [State.modular, h, if_false]
    exact ⟨h, t, retire_nonInv s nc rd _⟩

/-- Noting a missing inverse touches `NONINV` alone. -/
theorem noteInverse_cases (s : State) (ra rm : Reg) :
    ((s.val rm = 0 ∨ invertible (s.val ra) (s.val rm) = true) ∧ s.noteInverse ra rm = s) ∨
    (s.val rm ≠ 0 ∧ invertible (s.val ra) (s.val rm) = false ∧ s.noteInverse ra rm = s.markNonInv) := by
  unfold State.noteInverse
  by_cases h : s.val rm = 0 <;> cases hi : invertible (s.val ra) (s.val rm) <;> simp [h]

/-! ## The host's list is out of an instruction's sight -/

theorem retire_setPending (s : State) (nc : Bool) (rd : Reg) (v : Word) (l : List PendingCommand) :
    (s.setPending l).retire nc rd v = (s.retire nc rd v).setPending l := by
  cases nc with
  | true => rfl
  | false =>
    have g : ((s.setPending l).setReg rd v).advanceClock.fires = (s.setReg rd v).advanceClock.fires := rfl
    show State.completeCycle _ rd = (State.completeCycle _ rd).setPending l
    unfold State.completeCycle
    rw [g]
    split <;> rfl

theorem raiseError_setPending (s : State) (cause : ErrorCause) (info : BitVec 32) (l : List PendingCommand) :
    (s.setPending l).raiseError cause info = (s.raiseError cause info).setPending l := by
  cases cause <;> simp only [State.raiseError, State.markError, State.recordError, State.setPending] <;>
    cases s.errInfo.cause <;> rfl

theorem modular_setPending (s : State) (i : Instr) (nc : Bool) (rd rm : Reg) (result : Nat → Nat)
    (l : List PendingCommand) :
    (s.setPending l).modular i nc rd rm result = (s.modular i nc rd rm result).setPending l := by
  unfold State.modular
  rw [setPending_val, raiseError_setPending, retire_setPending]
  split <;> rfl

theorem noteInverse_setPending (s : State) (ra rm : Reg) (l : List PendingCommand) :
    (s.setPending l).noteInverse ra rm = (s.noteInverse ra rm).setPending l := by
  unfold State.noteInverse
  rw [setPending_val, setPending_val]
  split <;> rfl

/-- An instruction does the same whatever commands are pending, and leaves them pending. -/
theorem exec_setPending {i : Instr} {s u : State} (h : exec i s = .next u) (l : List PendingCommand) :
    exec i (s.setPending l) = .next (u.setPending l) := by
  cases i <;> cases h <;> apply congrArg Host.Outcome.next <;>
    first
      | exact modular_setPending ..
      | exact retire_setPending ..
      | (rw [noteInverse_setPending]; exact modular_setPending ..)
      | rfl

/-! ## Every instruction -/

/-- Every instruction answers a next state: the engine's errors are records, not stops (R250). -/
theorem exec_next (i : Instr) (s : State) : ∃ t, exec i s = .next t := by
  cases i <;> exact ⟨_, rfl⟩

/-- A primitive completes on one register, or takes `MODZERO` with its own word (R131). -/
theorem exec_primitive_cases {i : Instr} {s t : State} (hp : i.isPrimitive = true) (h : exec i s = .next t) :
    (∃ rd v, Retired s t i.noCount rd v ∧ (s.nonInv = true → t.nonInv = true)) ∨
    ErrorTaken s t .modZero (encodeWord i) := by
  have fin (nc : Bool) (rd rm : Reg) (result : Nat → Nat) (hr : ∀ m, 0 < m → result m < m) (hn : i.noCount = nc)
      (e : t = s.modular i nc rd rm result) :
      (∃ rd v, Retired s t i.noCount rd v ∧ (s.nonInv = true → t.nonInv = true)) ∨
        ErrorTaken s t .modZero (encodeWord i) := by
    subst e; subst hn
    rcases modular_cases s i i.noCount rd rm result hr with ⟨-, k⟩ | ⟨-, k, n⟩
    · exact .inr k
    · exact .inl ⟨rd, _, k, fun x => n.trans x⟩
  cases i with
  | addMod nc rd ra rb rm => exact fin nc rd rm _ (fun m => addMod_lt _ _) rfl (by injection h with h; exact h.symm)
  | subMod nc rd ra rb rm => exact fin nc rd rm _ (fun m => subMod_lt _ _) rfl (by injection h with h; exact h.symm)
  | mulMod nc rd ra rb rm => exact fin nc rd rm _ (fun m => mulMod_lt _ _) rfl (by injection h with h; exact h.symm)
  | modCopy nc rd ra rm => exact fin nc rd rm _ (fun m => modCopy_lt _) rfl (by injection h with h; exact h.symm)
  | addInverse nc rd ra rm => exact fin nc rd rm _ (fun m => addInverse_lt _) rfl (by injection h with h; exact h.symm)
  | modInverse nc rd ra rm =>
    have e : t = (s.noteInverse ra rm).modular (.modInverse nc rd ra rm) nc rd rm (modInverse (s.val ra)) := by
      injection h with h; exact h.symm
    rcases noteInverse_cases s ra rm with ⟨-, n⟩ | ⟨hm, -, n⟩
    · rw [n] at e
      exact fin nc rd rm _ (fun m => modInverse_lt _) rfl e
    · rw [n] at e
      rcases modular_cases s.markNonInv (.modInverse nc rd ra rm) nc rd rm (modInverse (s.val ra))
        (fun m => modInverse_lt _) with ⟨z, -⟩ | ⟨-, k, n'⟩
      · exact absurd z hm
      · rw [← e] at k n'
        exact .inl ⟨rd, _, ⟨k.others, k.config, k.errors, k.signing, k.control, k.uncounted, k.counted, k.quiet,
          k.faulted⟩, fun _ => n'⟩
  | copy nc rd ra =>
    have e : t = s.retire nc rd (s.reg ra) := by injection h with h; exact h.symm
    exact .inl ⟨rd, _, e ▸ retire_retired s nc rd _, fun x => by rw [e, retire_nonInv]; exact x⟩
  | loadImmediate nc rd imm =>
    have e : t = s.retire nc rd imm := by injection h with h; exact h.symm
    exact .inl ⟨rd, _, e ▸ retire_retired s nc rd _, fun x => by rw [e, retire_nonInv]; exact x⟩
  | tick rd =>
    have e : t = s.retire false rd (s.reg rd) := by injection h with h; exact h.symm
    exact .inl ⟨rd, _, e ▸ retire_retired s false rd _, fun x => by rw [e, retire_nonInv]; exact x⟩
  | modexp rd ra rb rm => cases hp
  | signNoncrt => cases hp
  | signCrtDirect => cases hp
  | signCrtShamir => cases hp

end Sys2Proof.Machine
end

