-- ==== Sys2Proof/Laws/PerInstr.lean ====
section
/-! SUPPORT. What is said of every instruction as syntax, one lemma per constructor. -/

namespace Sys2Proof.Laws

/-- The word of an instruction passes every check of R106 (WellFormed.lean), whatever its operands. -/
def EncodesLegally.Statement (i : Instr) : Prop := legalWord (encodeWord i) = true

theorem legal_of_fields {opc : BitVec 4} {nc : Bool} {rd ra rb rm : Reg} {mode : BitVec 2}
    (ho : 1 ≤ opc.toNat ∧ opc.toNat ≤ 11)
    (hu : unusedClear (fieldWord opc nc rd ra rb rm mode) = true)
    (hn : nc = true → opc.toNat ≤ 8)
    (hm : if opc.toNat = 11 then mode ≠ 3#2 else mode = 0#2) :
    legalWord (fieldWord opc nc rd ra rb rm mode) = true := by
  have hn' : (!nc || decide (opc.toNat ≤ 8)) = true := by
    cases nc
    · rfl
    · simpa using hn rfl
  have hm' : (if opc.toNat = 11 then mode != 3#2 else mode == 0#2) = true := by
    split at hm <;> simp_all
  simp only [legalWord, opcodeAssigned, reservedClear, noCountAllowed, modeAssigned, fieldWord_opcode,
    fieldWord_reserved1, fieldWord_reserved2, fieldWord_noCount, fieldWord_mode, ho, hu, hn', hm', decide_true,
    beq_self_eq_true, Bool.and_self]

theorem EncodesLegally.addMod (nc : Bool) (rd ra rb rm : Reg) : EncodesLegally.Statement (.addMod nc rd ra rb rm) :=
  legal_of_fields (by decide) (by simp [unusedClear]) (fun _ => by decide) (by decide)

theorem EncodesLegally.subMod (nc : Bool) (rd ra rb rm : Reg) : EncodesLegally.Statement (.subMod nc rd ra rb rm) :=
  legal_of_fields (by decide) (by simp [unusedClear]) (fun _ => by decide) (by decide)

theorem EncodesLegally.mulMod (nc : Bool) (rd ra rb rm : Reg) : EncodesLegally.Statement (.mulMod nc rd ra rb rm) :=
  legal_of_fields (by decide) (by simp [unusedClear]) (fun _ => by decide) (by decide)

theorem EncodesLegally.modCopy (nc : Bool) (rd ra rm : Reg) : EncodesLegally.Statement (.modCopy nc rd ra rm) :=
  legal_of_fields (by decide) (by simp [unusedClear]) (fun _ => by decide) (by decide)

theorem EncodesLegally.copy (nc : Bool) (rd ra : Reg) : EncodesLegally.Statement (.copy nc rd ra) :=
  legal_of_fields (by decide) (by simp [unusedClear]) (fun _ => by decide) (by decide)

theorem EncodesLegally.modInverse (nc : Bool) (rd ra rm : Reg) : EncodesLegally.Statement (.modInverse nc rd ra rm) :=
  legal_of_fields (by decide) (by simp [unusedClear]) (fun _ => by decide) (by decide)

theorem EncodesLegally.addInverse (nc : Bool) (rd ra rm : Reg) : EncodesLegally.Statement (.addInverse nc rd ra rm) :=
  legal_of_fields (by decide) (by simp [unusedClear]) (fun _ => by decide) (by decide)

theorem EncodesLegally.loadImmediate (nc : Bool) (rd : Reg) (imm : Word) :
    EncodesLegally.Statement (.loadImmediate nc rd imm) :=
  legal_of_fields (by decide) (by simp [unusedClear]) (fun _ => by decide) (by decide)

theorem EncodesLegally.tick (rd : Reg) : EncodesLegally.Statement (.tick rd) :=
  legal_of_fields (by decide) (by simp [unusedClear]) (fun h => absurd h (by decide)) (by decide)

theorem EncodesLegally.modexp (rd ra rb rm : Reg) : EncodesLegally.Statement (.modexp rd ra rb rm) :=
  legal_of_fields (by decide) (by simp [unusedClear]) (fun h => absurd h (by decide)) (by decide)

theorem EncodesLegally.signNoncrt : EncodesLegally.Statement .signNoncrt := by
  show legalWord _ = true
  decide

theorem EncodesLegally.signCrtDirect : EncodesLegally.Statement .signCrtDirect := by
  show legalWord _ = true
  decide

theorem EncodesLegally.signCrtShamir : EncodesLegally.Statement .signCrtShamir := by
  show legalWord _ = true
  decide

end Sys2Proof.Laws
end

