-- ==== Sys2Proof/Laws/Sequencer.lean ====
section
/-! SUPPORT. What an engine step, a host command and a step of the machine can do. -/

namespace Sys2Proof.Machine

/-! ## Positions of a macro -/

/-- A position inside the stages is found. -/
theorem locate_of_lt {k : Nat} {l : List Stage} {n : Nat}
    (h : n < (l.map (fun g => g.body.length k)).sum) : ∃ g off, locate k l n = some (g, off) := by
  induction l generalizing n with
  | nil => simp at h
  | cons a rest ih =>
    by_cases hn : n < a.body.length k
    · exact ⟨a, n, by simp [locate, hn]⟩
    · obtain ⟨g, off, e⟩ := ih (n := n - a.body.length k) (by simp at h; omega)
      exact ⟨g, off, by simp [locate, hn, e]⟩

/-- A found position is one of the stages', and lies inside that stage. -/
theorem locate_spec {k : Nat} {l : List Stage} {n : Nat} {g : Stage} {off : Nat}
    (h : locate k l n = some (g, off)) : g ∈ l ∧ off < g.body.length k := by
  induction l generalizing n with
  | nil => cases h
  | cons a rest ih =>
    unfold locate at h
    split at h
    · cases h
      exact ⟨List.mem_cons_self, ‹_›⟩
    · exact ⟨List.mem_cons_of_mem _ (ih h).1, (ih h).2⟩

/-- A micro-op's number inside its stage is at most its number in the macro. -/
theorem locate_off_le {k : Nat} {l : List Stage} {n : Nat} {g : Stage} {off : Nat}
    (h : locate k l n = some (g, off)) : off ≤ n := by
  induction l generalizing n with
  | nil => cases h
  | cons a rest ih =>
    unfold locate at h
    split at h
    · cases h
      exact Nat.le_refl _
    · exact Nat.le_trans (ih h) (Nat.sub_le _ _)

/-- The next position of the same stage, while it has one. -/
theorem locate_succ {k : Nat} {l : List Stage} {n : Nat} {g : Stage} {off : Nat}
    (h : locate k l n = some (g, off)) (ho : off + 1 < g.body.length k) :
    locate k l (n + 1) = some (g, off + 1) := by
  induction l generalizing n with
  | nil => cases h
  | cons a rest ih =>
    unfold locate at h
    split at h
    · cases h
      simp [locate, ho]
    · rename_i hn
      have e : n + 1 - a.body.length k = n - a.body.length k + 1 := by omega
      have hn' : ¬ n + 1 < a.body.length k := by omega
      rw [locate, if_neg hn', e]
      exact ih h

/-- The previous position of the same stage. -/
theorem locate_pred {k : Nat} {l : List Stage} {n : Nat} {g : Stage} {off : Nat}
    (h : locate k l (n + 1) = some (g, off + 1)) : locate k l n = some (g, off) := by
  induction l generalizing n with
  | nil => cases h
  | cons a rest ih =>
    unfold locate at h ⊢
    by_cases hn : n < a.body.length k
    · rw [if_pos hn]
      split at h
      · cases h
        rfl
      · have e : n + 1 - a.body.length k = 0 := by omega
        rw [e] at h
        exact absurd (locate_off_le h) (by omega)
    · have hn' : ¬ n + 1 < a.body.length k := by omega
      have e : n + 1 - a.body.length k = n - a.body.length k + 1 := by omega
      rw [if_neg hn', e] at h
      rw [if_neg hn]
      exact ih h

/-- Every position inside a stage has a micro-op. -/
theorem microOp_of_lt {k off : Nat} {b : StageBody} (s : State) (h : off < b.length k) :
    ∃ i, b.microOp k off s = some i := by
  cases b with
  | ops listing => exact ⟨listing[off], List.getElem?_eq_getElem h⟩
  | exp rd ra rb rm => exact ⟨_, rfl⟩

/-- The micro-ops of an exponentiation are primitives with `NC = 0` (R114). -/
theorem expMicroOp_isMicroOp (rd ra rb rm : Reg) (k off : Nat) (s : State) :
    (expMicroOp rd ra rb rm k off s).isMicroOp = true := by
  unfold expMicroOp
  split
  · rfl
  · split <;> rfl

/-- Every listed micro-op is a primitive with `NC = 0` (R114). -/
theorem listings_isMicroOp :
    ∀ i ∈ prepDirect ++ prepShamir ++ checkOps ++ deriveOps ++ combineOps, i.isMicroOp = true := by decide

theorem stage_microOp_isMicroOp {ctx : MacroContext} {g : Stage} (hg : g ∈ stages ctx) {k off : Nat} {s : State}
    {i : Instr} (h : g.body.microOp k off s = some i) : i.isMicroOp = true := by
  have listed {l : List Instr} (hl : ∀ i ∈ l, i.isMicroOp = true) (e : l[off]? = some i) : i.isMicroOp = true :=
    hl i (List.mem_of_getElem? e)
  have sub {l : List Instr} (hl : ∀ i ∈ l, i ∈ prepDirect ++ prepShamir ++ checkOps ++ deriveOps ++ combineOps) :
      ∀ i ∈ l, i.isMicroOp = true := fun i hi => listings_isMicroOp i (hl i hi)
  cases ctx with
  | modexp rd ra rb rm w =>
    simp only [stages, List.mem_singleton] at hg
    subst hg
    cases h
    exact expMicroOp_isMicroOp ..
  | sign mode w =>
    cases mode <;> simp only [stages, List.mem_cons, List.not_mem_nil, or_false] at hg
    · subst hg
      cases h
      exact expMicroOp_isMicroOp ..
    · rcases hg with rfl | rfl | rfl | rfl
      · exact listed (sub (by simp +contextual)) h
      · cases h
        exact expMicroOp_isMicroOp ..
      · cases h
        exact expMicroOp_isMicroOp ..
      · exact listed (sub (by simp +contextual)) h
    · rcases hg with rfl | rfl | rfl | rfl | rfl
      · exact listed (sub (by simp +contextual)) h
      · cases h
        exact expMicroOp_isMicroOp ..
      · cases h
        exact expMicroOp_isMicroOp ..
      · exact listed (sub (by simp +contextual)) h
      · exact listed (sub (fun i hi => by simp only [List.mem_append] at hi ⊢; tauto)) h

/-- The length of every macro is that of R195 and R225. -/
theorem total_eq_cyclesOf (ctx : MacroContext) : ctx.total = cyclesOf ctx := by
  cases ctx with
  | modexp rd ra rb rm k => simp [MacroContext.total, stages, StageBody.length, expLength, cyclesOf, MacroContext.width]
  | sign mode k =>
    cases mode <;>
      simp [MacroContext.total, stages, StageBody.length, expLength, cyclesOf, MacroContext.width, prepDirect,
        prepShamir, checkOps, deriveOps, combineOps] <;> omega

/-- The model's exponentiation runs the micro-ops that R192 prints. -/
theorem expMicroOp_of_listing {s : State} {rd ra rb rm : Reg} {k off : Nat} {i : Instr}
    (h : ExpListing s rd ra rb rm k off i) : off < expLength k ∧ expMicroOp rd ra rb rm k off s = i := by
  unfold expLength expMicroOp
  rcases h with ⟨rfl, rfl⟩ | ⟨j, hj, rfl, rfl⟩ | ⟨j, hj, rfl, rfl⟩
  · exact ⟨by omega, rfl⟩
  · refine ⟨by omega, ?_⟩
    rw [if_neg (by omega), if_pos (by omega)]
  · have e : loopIndex k (2 * j + 2) = k - 1 - j := by
      unfold loopIndex
      omega
    refine ⟨by omega, ?_⟩
    rw [if_neg (by omega), if_neg (by omega), e]
    rfl

/-! ## The engine's step -/

/-- An engine step that answers a next state rests, or ran one micro-op and the sequencer's actions. -/
theorem engineStep_cases {s t : State} (h : engineStep s = .next t) :
    (s.running = none ∧ t = s) ∨
    ∃ r g off i u, s.running = some r ∧ locate r.mctx.width (stages r.mctx) r.seq = some (g, off) ∧
      g.body.microOp r.mctx.width off (s.enterStage g off) = some i ∧ i.isMicroOp = true ∧
      exec i (s.enterStage g off) = .next u ∧ t = u.afterMicroOp r g off := by
  unfold engineStep at h
  split at h
  · cases h
    exact .inl ⟨‹_›, rfl⟩
  · rename_i r hr
    split at h
    · cases h
    · rename_i g off hl
      unfold runMicroOp at h
      split at h
      · cases h
      · rename_i i hi
        obtain ⟨u, hu⟩ := exec_next i (s.enterStage g off)
        rw [hu] at h
        cases h
        exact .inr ⟨r, g, off, i, u, hr, hl, hi, stage_microOp_isMicroOp (locate_spec hl).1 hi, hu, rfl⟩

/-- With its position inside the expansion, the engine always has a next state. -/
theorem engineStep_next {s : State} (h : ∀ r, s.running = some r → r.seq < r.mctx.total) :
    ∃ t, engineStep s = .next t := by
  unfold engineStep
  cases hr : s.running with
  | none => exact ⟨s, rfl⟩
  | some r =>
    obtain ⟨g, off, hl⟩ := locate_of_lt (h r hr)
    obtain ⟨i, hi⟩ := microOp_of_lt (s.enterStage g off) (locate_spec hl).2
    obtain ⟨u, hu⟩ := exec_next i (s.enterStage g off)
    exact ⟨u.afterMicroOp r g off, by simp [hl, runMicroOp, hi, hu]⟩

/-- What ends an engine step: the macro abandoned by an error, the detected fault, the end, or the next position. -/
theorem afterMicroOp_cases (u : State) (r : Running) (g : Stage) (off : Nat) :
    (u.running = none ∧ u.afterMicroOp r g off = u) ∨
    (u.running ≠ none ∧ g.compares = true ∧ off + 1 = g.body.length r.mctx.width ∧
      u.reg Reg.SCRATCH1 ≠ u.reg Reg.SCRATCH2 ∧ u.afterMicroOp r g off = u.detectFault) ∨
    (u.running ≠ none ∧ r.seq + 1 = r.mctx.total ∧ u.afterMicroOp r g off = u.finish r.mctx) ∨
    (u.running ≠ none ∧ r.seq + 1 ≠ r.mctx.total ∧
      u.afterMicroOp r g off = u.continueAt r.mctx (r.seq + 1)) := by
  unfold State.afterMicroOp
  by_cases h : u.running = none
  · exact .inl ⟨h, by simp [h]⟩
  · rw [if_neg h]
    split
    · rename_i hc
      simp only [Bool.and_eq_true, beq_iff_eq, bne_iff_ne] at hc
      exact .inr (.inl ⟨h, hc.1.1, hc.1.2, hc.2, rfl⟩)
    · split
      · exact .inr (.inr (.inl ⟨h, ‹_›, rfl⟩))
      · exact .inr (.inr (.inr ⟨h, ‹_›, rfl⟩))

/-! ## The host's side -/

/-- An `ISSUE` is refused in a terminal state, halts the engine on an illegal word, or runs the instruction. -/
theorem acceptIssue_cases {w : InstrWord} {imm : Word} {s t : State} (h : acceptIssue w imm s = .next t) :
    (s.phase.terminal = true ∧ t = s.raiseError .seq w) ∨
    (s.phase.terminal = false ∧ decode w imm = .illegal ∧ t = s.raiseError .illegal w) ∨
    (s.phase.terminal = false ∧ ∃ i, decode w imm = .instr i ∧ exec i (s.beginInstruction i) = .next t) := by
  unfold acceptIssue at h
  split at h
  · cases h
    exact .inl ⟨‹_›, rfl⟩
  · rename_i ht
    rw [Bool.not_eq_true] at ht
    split at h
    · cases h
      exact .inr (.inl ⟨ht, ‹_›, rfl⟩)
    · exact .inr (.inr ⟨ht, _, ‹_›, h⟩)

/-- The beginning of an instruction changes `STATE` alone, and only from INIT to LOAD_OPERANDS. -/
theorem beginInstruction_cases (s : State) (i : Instr) :
    (s.beginInstruction i = s ∧ (i.isSign = true ∨ s.phase ≠ .init)) ∨
    (s.beginInstruction i = s.enterPhase .loadOperands ∧ i.isSign = false ∧ s.phase = .init) := by
  unfold State.beginInstruction
  cases hi : i.isSign <;> cases hp : s.phase <;> simp

/-- A CSR write sets one of the three writable CSRs to a legal value, or is refused (R76). -/
theorem acceptCsrWrite_cases (s : State) (addr : CsrAddr) (value : CsrWord) :
    (s.phase.acceptsCsrWrite = false ∧ s.acceptCsrWrite addr value = s.raiseError .seq (addr.setWidth 32)) ∨
    (s.phase.acceptsCsrWrite = true ∧ addr.toNat = 1 ∧ s.acceptCsrWrite addr value = s.setFaultCycle value) ∨
    (s.phase.acceptsCsrWrite = true ∧ addr.toNat = 2 ∧
      ∃ b, faultBranchOf value = some b ∧ s.acceptCsrWrite addr value = s.setFaultBranch b) ∨
    (s.phase.acceptsCsrWrite = true ∧ addr.toNat = 3 ∧ value.toNat < 4 ∧
      s.acceptCsrWrite addr value = s.setConfig (value.getLsbD 0) (value.getLsbD 1)) ∨
    (s.phase.acceptsCsrWrite = true ∧ s.acceptCsrWrite addr value = s.raiseError .csr (addr.setWidth 32)) := by
  unfold State.acceptCsrWrite
  cases s.phase.acceptsCsrWrite
  · simp
  · simp only [if_true]
    split
    · simp [*]
    · split <;> simp [*]
    · split <;> simp [*]
    · simp

/-! ## One step -/

/-- A step that accepts no command is the engine's, whatever the host's list. -/
theorem step_of_acceptsNothing {s : State} (h : AcceptsNothing s) : ∃ l, step s = engineStep (s.setPending l) := by
  unfold step nextMove
  split
  · rename_i hp
    exact ⟨[], by rw [← hp]; rfl⟩
  · rename_i c rest hp
    obtain ⟨hb, hw⟩ := h c rest hp
    refine ⟨_, if_pos ?_⟩
    rcases hw with hw | ⟨w, imm, hc⟩ | ⟨addr, value, hc⟩
    · simp [hb, hw]
    · simp [hb, hc, HostCommand.held]
    · simp [hb, hc, HostCommand.held]

/-- A step that accepts no `RESET` accepts another command where it accepts one. -/
theorem command_ne_reset {s : State} (h : AcceptsNoReset s) {c : PendingCommand} {rest : List PendingCommand}
    (hp : s.pending = c :: rest) (ha : s.busy = false ∨ (c.wait = 0 ∧ c.command.held = false)) :
    c.command ≠ .reset := by
  intro hc
  obtain ⟨hb, hw⟩ := h c rest hp hc
  rcases ha with ha | ha
  · rw [hb] at ha
    cases ha
  · exact hw ha.1

/-- One step of the machine: an engine step with the host idle, an engine step under a command that has not arrived
or is held, or the acceptance of the oldest command. -/
theorem step_cases {s t : State} (h : step s = .next t) :
    (s.pending = [] ∧ engineStep s = .next t) ∨
    (∃ c rest, s.pending = c :: rest ∧ s.busy = true ∧ (c.wait ≠ 0 ∨ c.command.held = true) ∧
      engineStep (s.setPending ({ c with wait := c.wait - 1 } :: rest)) = .next t) ∨
    (∃ c rest, s.pending = c :: rest ∧ (s.busy = false ∨ (c.wait = 0 ∧ c.command.held = false)) ∧
      acceptCommand c.command (s.setPending rest) = .next t) := by
  unfold step nextMove at h
  split at h
  · exact .inl ⟨‹_›, h⟩
  · rename_i c rest hp
    split at h
    · rename_i hc
      simp only [Bool.and_eq_true, Bool.or_eq_true, bne_iff_ne, ne_eq] at hc
      exact .inr (.inl ⟨c, rest, hp, hc.1, hc.2, h⟩)
    · rename_i hc
      refine .inr (.inr ⟨c, rest, hp, ?_, h⟩)
      cases hb : s.busy
      · exact .inl rfl
      · right
        simpa [hb] using hc

end Sys2Proof.Machine
end

