-- ==== Sys2Proof/Tests/Slice0.lean ====
section
/-! SUPPORT. The model's own tests. Words and expected values are those of the spec's tables, written out: R100 to
R113 for words, R215 to R222 for listings, 95_test_vectors.md for results. The `witness_` theorems show, for each
statement with hypotheses, concrete states that meet them. -/

namespace Sys2Proof.Machine

/-! ## Helpers -/

/-- `2^1024 - 1`. -/
def top : Nat := (2 ^ 256) ^ 4 - 1

/-- `s` with the listed registers loaded. -/
def State.load (s : State) (l : List (Reg × Nat)) : State := l.foldl (fun t p => t.setReg p.1 (Word.ofNat p.2)) s

/-- LOAD_OPERANDS with the listed registers, `CLOCK = 0`. -/
def ready (l : List (Reg × Nat)) : State := (State.reset.enterPhase .loadOperands).load l

/-- `s` with one host command waiting. -/
def State.told (s : State) (c : HostCommand) : State := s.setPending [⟨0, c⟩]

/-- `s` with an `ISSUE` waiting. -/
def State.issued (s : State) (w : InstrWord) (imm : Nat) : State := s.told (.issue w (Word.ofNat imm))

/-- The textbook key of 95_test_vectors.md. -/
def textbook : List (Reg × Nat) :=
  [(Reg.P, 61), (Reg.Q, 53), (Reg.N, 3233), (Reg.D, 2753), (Reg.M, 65), (Reg.ONE, 1), (Reg.T, 11)]

/-- A `sign` of 512-bit scans at position `n`, in the given state. -/
def signing (mode : SignMode) (n : Nat) (p : Phase) (l : List (Reg × Nat)) : State :=
  ((((ready textbook).load l).markSign mode).enterPhase p).continueAt (.sign mode 512) n

/-- `modexp C, M, D, N` of 512-bit scans at position `n`, with the operands of R200. -/
def powering (n : Nat) (l : List (Reg × Nat)) : State :=
  ((ready [(Reg.N, 497), (Reg.D, 13), (Reg.M, 4), (Reg.ONE, 1)]).load l).continueAt
    (.modexp Reg.C Reg.M Reg.D Reg.N 512) n

/-- What a test looks at after a step: a register, `CLOCK` and `STATUS`. -/
def look (o : Host.Outcome State Fault Refusal) (r : Reg) : Option (Nat × Nat × Nat) :=
  match o with
  | .next t => some (t.val r, t.clock.toNat, t.statusWord.toNat)
  | .fault _ => none
  | .refused _ => none

/-- A CSR after a step. -/
def csrAfter (o : Host.Outcome State Fault Refusal) (addr : CsrAddr) : Option Nat :=
  match o with
  | .next t => some (t.csrValue addr).toNat
  | .fault _ => none
  | .refused _ => none

/-! ## WellFormed: each check refuses an ill-formed word -/

theorem test_opcode_zero_refused : opcodeAssigned 0x00000000#32 = false ∧ opcodeAssigned 0xC0000000#32 = false := by
  decide

theorem test_reserved_refused : reservedClear 0x41730600#32 = false ∧ reservedClear 0x90C00004#32 = false := by decide

theorem test_unused_refused :
    unusedClear 0xB0100000#32 = false ∧ unusedClear 0x90C01000#32 = false ∧ unusedClear 0x40735600#32 = false ∧
      unusedClear 0x50C50100#32 = false := by decide

theorem test_noCount_refused : noCountAllowed 0x98C00000#32 = false ∧ noCountAllowed 0xA8B43200#32 = false := by decide

theorem test_mode_refused : modeAssigned 0xB0000003#32 = false ∧ modeAssigned 0x10B6F201#32 = false := by decide

theorem test_legalWord : legalWord 0x38CCC000#32 = true ∧ legalWord 0xF0000000#32 = false := by decide

theorem test_isMicroOp_refuses :
    (Instr.modexp Reg.C Reg.M Reg.D Reg.N).isMicroOp = false ∧ Instr.signCrtDirect.isMicroOp = false ∧
      (Instr.copy true Reg.POW2 Reg.M).isMicroOp = false := by decide

/-! ## Decoding: the words of R113 and of 95_test_vectors.md, one for each constructor -/

theorem test_decode_addMod :
    decode 0x18B78200#32 0 = .instr (.addMod true Reg.C Reg.A Reg.B Reg.N) := by decide

theorem test_decode_subMod :
    decode 0x20605200#32 0 = .instr (.subMod false Reg.SCRATCH1 Reg.P Reg.ONE Reg.N) := by decide

theorem test_decode_mulMod :
    decode 0x30FCA200#32 0 = .instr (.mulMod false Reg.SCRATCH2 Reg.POW Reg.Y Reg.N) := by decide

theorem test_decode_modCopy :
    decode 0x40730600#32 0 = .instr (.modCopy false Reg.A Reg.D Reg.SCRATCH1) := by decide

theorem test_decode_copy : decode 0x58D40000#32 0 = .instr (.copy true Reg.POW2 Reg.M) := by decide

theorem test_decode_modInverse :
    decode 0x60900100#32 0 = .instr (.modInverse false Reg.X Reg.P Reg.Q) := by decide

theorem test_decode_addInverse :
    decode 0x70670200#32 0 = .instr (.addInverse false Reg.SCRATCH1 Reg.A Reg.N) := by decide

theorem test_decode_loadImmediate :
    decode 0x88500000#32 (Word.ofNat 7) = .instr (.loadImmediate true Reg.ONE (Word.ofNat 7)) := by decide

theorem test_decode_tick : decode 0x90C00000#32 0 = .instr (.tick Reg.POW) := by decide

theorem test_decode_modexp :
    decode 0xA0B43200#32 0 = .instr (.modexp Reg.C Reg.M Reg.D Reg.N) := by decide

theorem test_decode_signs :
    decode 0xB0000000#32 0 = .instr .signNoncrt ∧ decode 0xB0000001#32 0 = .instr .signCrtDirect ∧
      decode 0xB0000002#32 0 = .instr .signCrtShamir := by decide

theorem test_decode_illegal_opcodes :
    decode 0x00000000#32 0 = .illegal ∧ decode 0xC0000000#32 0 = .illegal ∧ decode 0xF0000000#32 0 = .illegal ∧
      decode 0xB0000003#32 0 = .illegal := ⟨rfl, rfl, rfl, rfl⟩

theorem test_decode_illegal_fields :
    decode 0xB0100000#32 0 = .illegal ∧ decode 0x98C00000#32 0 = .illegal ∧ decode 0x90C01000#32 0 = .illegal ∧
      decode 0xA8B43200#32 0 = .illegal ∧ decode 0x10B6F201#32 0 = .illegal ∧ decode 0x41730600#32 0 = .illegal ∧
      decode 0x40735600#32 0 = .illegal := ⟨rfl, rfl, rfl, rfl, rfl, rfl, rfl⟩

theorem test_decodeTableWord :
    decodeTableWord 32 0x80500000 = some (.loadImmediate false Reg.ONE (Word.ofNat 0)) ∧
      decodeTableWord 64 (7 * 2 ^ 32 + 0x80500000) = some (.loadImmediate false Reg.ONE (Word.ofNat 7)) ∧
      decodeTableWord 32 0xB0000003 = none := ⟨rfl, rfl, rfl⟩

/-- The listings of the crt_recombine_unit have the words of R215, R217, R219, R220 and R222. -/
theorem test_listing_words :
    prepDirect.map encodeWord = [0x20605200#32, 0x40730600#32, 0x20615200#32, 0x40830600#32] ∧
    prepShamir.map encodeWord = [0x3090E200#32, 0x30A1E200#32, 0x20605200#32, 0x20FE5200#32, 0x3066F200#32,
      0x40730600#32, 0x20615200#32, 0x3066F200#32, 0x40830600#32] ∧
    checkOps.map encodeWord = [0x406C0E00#32, 0x40FD0E00#32] ∧
    deriveOps.map encodeWord = [0x40CC0000#32, 0x40DD0100#32] ∧
    combineOps.map encodeWord = [0x60900100#32, 0x60A10000#32, 0x306D9200#32, 0x30660200#32, 0x30FCA200#32,
      0x30FF1200#32, 0x10B6F200#32] := by decide

/-! ## One step of each instruction (95_test_vectors.md 2.2) -/

theorem test_addMod_reduces :
    look (step ((ready [(7, 20), (8, 30), (2, 7)]).issued 0x10B78200#32 0)) 11 = some (1, 1, 0x1) := by decide

theorem test_addMod_exact :
    look (step ((ready [(7, top), (8, top), (2, top)]).issued 0x10B78200#32 0)) 11 = some (0, 1, 0x1) := by decide

theorem test_subMod_below :
    look (step ((ready [(7, 2), (8, 20), (2, 7)]).issued 0x20B78200#32 0)) 11 = some (3, 1, 0x1) := by decide

theorem test_subMod_wide :
    look (step ((ready [(7, 0), (8, top), (2, 10)]).issued 0x20B78200#32 0)) 11 = some (5, 1, 0x1) := by decide

theorem test_mulMod_double_width :
    look (step ((ready [(7, (2 ^ 256) ^ 3 * 2 ^ 255), (8, 2), (2, top)]).issued 0x30B78200#32 0)) 11
      = some (1, 1, 0x1) := by decide

theorem test_mulMod_aliased :
    look (step ((ready [(7, 5)]).issued 0x30777700#32 0)) 7 = some (0, 1, 0x1) := by decide

theorem test_modCopy_reduces :
    look (step ((ready [(3, 2753), (6, 60)]).issued 0x40730600#32 0)) 7 = some (53, 1, 0x1) := by decide

theorem test_modCopy_equal :
    look (step ((ready [(3, 60), (6, 60)]).issued 0x40730600#32 0)) 7 = some (0, 1, 0x1) := by decide

theorem test_copy_unreduced :
    look (step ((ready [(3, top)]).issued 0x50C30000#32 0)) 12 = some (top, 1, 0x1) := by decide

theorem test_copy_self_counts :
    look (step ((ready [(12, 77)]).issued 0x50CC0000#32 0)) 12 = some (77, 1, 0x1) := by decide

theorem test_modInverse_inverts :
    look (step ((ready [(0, 61), (1, 53)]).issued 0x60900100#32 0)) 9 = some (20, 1, 0x1) := by decide

theorem test_modInverse_flags :
    look (step ((ready [(7, 6), (2, 9)]).issued 0x60970200#32 0)) 9 = some (0, 1, 0x81) := by decide

theorem test_addInverse_completes :
    look (step ((ready [(7, 10), (2, 7)]).issued 0x70670200#32 0)) 6 = some (4, 1, 0x1) := by decide

theorem test_addInverse_multiple :
    look (step ((ready [(7, 14), (2, 7)]).issued 0x70670200#32 0)) 6 = some (0, 1, 0x1) := by decide

theorem test_loadImmediate_begins :
    look (step (State.reset.issued 0x80500000#32 1)) 5 = some (1, 1, 0x1) := by decide

theorem test_loadImmediate_uncounted :
    look (step ((ready []).issued 0x88500000#32 top)) 5 = some (top, 0, 0x1) := by decide

/-- The `tick` at `CLOCK = 4` of 95_test_vectors.md 2.2, register 12 holding 9. -/
def ticking : State := { ready [(12, 9)] with clock := 4#64, pending := [⟨0, .issue 0x90C00000#32 0⟩] }

theorem test_tick_counts : look (step ticking) 12 = some (9, 5, 0x1) := by decide

/-- Its fault with the draw `b = 3` of 95_test_vectors.md 2.3. -/
theorem test_tick_takes_fault :
    ((ready [(12, 9)]).injectBit 12 3).val 12 = 1 ∧
      ((ready [(12, 9)]).injectBit 12 3).faultInfoWord = 0xC0003#64 := by decide

/-- `FAULT_CYCLE = 5` makes that `tick` the faulted one, whatever the draw: `STATUS = 0x21`. -/
theorem test_fault_fires :
    csrAfter (step { ticking with faultCycle := 5#64 }) 0x04#8 = some 0x21 ∧
      csrAfter (step { ticking with faultCycle := 6#64 }) 0x04#8 = some 0x1 := by decide

theorem test_modexp_issue :
    look (step ((ready [(5, 1), (4, 4), (3, 13), (2, 497)]).issued 0xA0B43200#32 0)) 11 = some (0, 0, 0x11) := by
  decide

/-- The last micro-op of program P6: bit 0 of 13 multiplies 484 by 4. -/
theorem test_modexp_ends :
    look (step { powering 1024 [(11, 484)] with clock := 1028#64 }) 11 = some (445, 1029, 0x1) := by decide

theorem test_modexp_bit_clear :
    look (step { powering 1022 [(11, 120)] with clock := 1026#64 }) 11 = some (120, 1027, 0x11) := by decide

theorem test_signNoncrt_issue :
    look (step ((ready textbook).issued 0xB0000000#32 0)) 11 = some (0, 0, 0x1011) := by decide

theorem test_signNoncrt_first : look (step (signing .noncrt 0 .loadOperands [])) 11 = some (1, 1, 0x1012) := by decide

theorem test_signCrtDirect_issue :
    look (step ((ready textbook).issued 0xB0000001#32 0)) 11 = some (0, 0, 0x3011) := by decide

/-- The last micro-op of program P1. -/
theorem test_signCrtDirect_ends :
    look (step { signing .crtDirect 2060 .combine [(6, 2867), (15, 954)] with clock := 2066#64 }) 11
      = some (588, 2067, 0x3006) := by decide

theorem test_signCrtShamir_issue :
    look (step ((ready textbook).issued 0xB0000002#32 0)) 11 = some (0, 0, 0x5011) := by decide

/-- The second check micro-op of program P3. -/
theorem test_signCrtShamir_detects :
    look (step { signing .crtShamir 2060 .consistencyCheck [(6, 9), (13, 164)] with
      clock := 2067#64, faultFired := true }) 15 = some (10, 2068, 0x5067) := by decide

/-! ## Host commands and errors (95_test_vectors.md 2.6 and P5) -/

theorem test_modZero_halts :
    look (step ((ready [(7, 3), (8, 4)]).issued 0x10B78200#32 0)) 11 = some (0, 0, 0x208) ∧
      csrAfter (step ((ready [(7, 3), (8, 4)]).issued 0x10B78200#32 0)) 0x06#8 = some 0x10B7820000000002 := by decide

theorem test_illegal_halts :
    csrAfter (step (State.reset.issued 0xB0000003#32 0)) 0x04#8 = some 0x108 ∧
      csrAfter (step (State.reset.issued 0xB0000003#32 0)) 0x06#8 = some 0xB000000300000001 := by decide

theorem test_csr_refused :
    csrAfter (step (State.reset.told (.csrWrite 0x03#8 4#64))) 0x04#8 = some 0x800 ∧
      csrAfter (step (State.reset.told (.csrWrite 0xFF#8 0#64))) 0x06#8 = some 0x000000FF00000004 := by decide

theorem test_csr_written :
    csrAfter (step (State.reset.told (.csrWrite 0x03#8 3#64))) 0x03#8 = some 3 ∧
      csrAfter (step (State.reset.told (.csrWrite 0x02#8 2#64))) 0x02#8 = some 2 := by decide

/-! ## Witnesses: states that meet the hypotheses of the statements

Each names the statement it is for, and shows the clauses at the edges of their ranges. -/

theorem witness_DecodeInvertsEncode : ∀ nc rd v, Instr.tick 15 ≠ .loadImmediate nc rd v := by
  intro nc rd v h
  cases h

theorem witness_DecodedInstructionSpellsItsWord :
    decode 0x8FF00000#32 0 = .illegal ∧
      decode 0x88F00000#32 (Word.ofNat top) = .instr (.loadImmediate true 15 (Word.ofNat top)) := by decide

/-- The three clauses of each primitive with a modulus: a modulus of 1, the largest, and 0. -/
theorem witness_modulus :
    (ready [(2, 1)]).val 2 ≠ 0 ∧ (ready [(2, top)]).val 2 ≠ 0 ∧ (ready [(2, 0)]).val 2 = 0 := by decide

/-- `ModInverseInvertsOrFlags`: invertible (modulus 1 among them), and not. -/
theorem witness_ModInverseInvertsOrFlags :
    (ready [(7, 6), (2, 1)]).val 2 ≠ 0 ∧
      Nat.gcd ((ready [(7, 6), (2, 1)]).val 7 % (ready [(7, 6), (2, 1)]).val 2) ((ready [(7, 6), (2, 1)]).val 2) = 1 ∧
      (ready [(7, 6), (2, 9)]).val 2 ≠ 0 ∧
      Nat.gcd ((ready [(7, 6), (2, 9)]).val 7 % (ready [(7, 6), (2, 9)]).val 2) ((ready [(7, 6), (2, 9)]).val 2) ≠ 1 := by
  decide

/-- `Retired`: the fault is due on one state and not on another, counted and not. -/
theorem witness_Retired :
    FaultDue { ticking with faultCycle := 5#64 } ∧ ¬ FaultDue ticking := by
  constructor
  · exact ⟨by decide, by decide, rfl, fun h => by cases h⟩
  · rintro ⟨h, -⟩
    exact h rfl

theorem witness_NoCountSkipsCycleCompletion :
    (Instr.copy true 15 0).isPrimitive = true ∧ (Instr.copy true 15 0).noCount = true ∧
      (∃ t, exec (.copy true 15 0) { ticking with faultCycle := 5#64 } = .next t) ∧
      (⟨some .combine, .ops combineOps, false⟩ : Stage) ∈ stages (.sign .crtDirect 512) ∧
      StageBody.microOp 512 6 State.reset (.ops combineOps)
        = some (.addMod false Reg.C Reg.SCRATCH1 Reg.SCRATCH2 Reg.N) :=
  ⟨rfl, rfl, ⟨_, rfl⟩, by decide, rfl⟩

theorem witness_FaultFiresAtMostOnce :
    ∃ t, step { ticking with faultCycle := 5#64, faultFired := true } = .next t ∧
      AcceptsNoReset { ticking with faultCycle := 5#64, faultFired := true } := by
  refine ⟨_, rfl, ?_⟩
  intro c rest h hc
  cases h
  cases hc

/-- A `sign` at work, no error and no fault yet, is a consistent state. -/
theorem consistent_signing (mode : SignMode) (n : Nat) (p : Phase) (s : State)
    (hr : s.running = some ⟨.sign mode 512, n⟩) (hph : s.phase = p)
    (hs : s.signActive = true ∧ s.signMode = mode) (ff : s.faultFired = false ∧ s.faultInfo = ⟨0#10, 0⟩)
    (ei : s.errInfo.cause = none)
    (er : s.errIllegal = false ∧ s.errModZero = false ∧ s.errSeq = false ∧ s.errCsr = false)
    (fd : s.faultDetected = false) (hn : 0 < n ∧ n < MacroContext.total (.sign mode 512))
    (hp : ∃ g off, locate 512 (stages (.sign mode 512)) (n - 1) = some (g, off) ∧ g.enters = some p)
    (hq : p ≠ .init ∧ p ≠ .done ∧ p ≠ .faultDetected ∧ p ≠ .halted) : Consistent s := by
  refine ⟨?_, ?_, ?_, ?_, ?_, ?_, ?_, ?_, ?_⟩
  · intro r h
    rw [hr] at h
    cases h
    refine ⟨hn.2, .inl rfl, hs.1, hs.2, fun z => ?_, fun _ => ?_⟩
    · have := hn.1
      simp only at z
      omega
    · rw [hph]
      exact hp
  · intro h
    rw [hr] at h
    cases h
  · exact fun _ => .inr ⟨mode, 512, n, hr⟩
  · exact fun h => absurd (hph ▸ h) hq.2.1
  · exact ⟨fun h => absurd (hph ▸ h) hq.2.2.1, fun h => by rw [fd] at h; cases h⟩
  · exact ⟨fun h => absurd (hph ▸ h) hq.2.2.2, fun h => by rw [er.1, er.2.1] at h; simp at h⟩
  · exact ⟨fun _ => er, fun _ => ei⟩
  · exact fun _ => ff.2
  · exact fun h => absurd (hph ▸ h) hq.1

/-- Where the host gives no command, none is accepted. -/
theorem acceptsNothing_of_idle {s : State} (h : HostIdle s) : AcceptsNothing s := by
  intro c rest e
  rw [h] at e
  cases e

/-- `AcceptsNoReset` and `AcceptsNothing` over a running macro: a `RESET` that has not arrived, a held ISSUE that has,
and a held CSR write. -/
theorem witness_AcceptsNothing :
    AcceptsNoReset ((powering 5 []).setPending [⟨3, .reset⟩]) ∧
    AcceptsNothing ((powering 5 []).setPending [⟨3, .reset⟩]) ∧
    AcceptsNothing ((powering 5 []).setPending [⟨0, .issue 0x90C00000#32 0⟩, ⟨0, .reset⟩]) ∧
    AcceptsNothing ((powering 5 []).setPending [⟨0, .csrWrite 0x01#8 9#64⟩]) ∧
    ∃ t, step ((powering 5 []).setPending [⟨3, .reset⟩]) = .next t ∧ t.pending = [⟨2, .reset⟩] ∧ t.clock = 1#64 := by
  refine ⟨?_, ?_, ?_, ?_, _, rfl, rfl, rfl⟩
  · intro c rest h _
    cases h
    exact ⟨rfl, by decide⟩
  · intro c rest h
    cases h
    exact ⟨rfl, .inl (by decide)⟩
  · intro c rest h
    cases h
    exact ⟨rfl, .inr (.inl ⟨_, _, rfl⟩)⟩
  · intro c rest h
    cases h
    exact ⟨rfl, .inr (.inr ⟨_, _, rfl⟩)⟩

/-- A `noncrt` fault at the first squaring. -/
def faultyNoncrt : State := { signing .noncrt 1 .expBranch1 [(Reg.C, 1)] with faultCycle := 1#64 }

/-- A `BRANCH_P` fault at the first micro-op of branch 1, which enters EXP_BRANCH_1. -/
def faultyBranchP : State :=
  { signing .crtDirect 4 .loadOperands [(Reg.A, 53)] with faultCycle := 1#64, faultBranch := .branchP }

/-- A `BRANCH_Q` fault at the last micro-op of branch 2. -/
def faultyBranchQ : State :=
  { signing .crtDirect 2053 .expBranch2 [(Reg.POW2, 5)] with faultCycle := 1#64, faultBranch := .branchQ }

theorem witness_SignFaultLandsInTheSelectedBranch :
    (Consistent faultyNoncrt ∧ HostIdle faultyNoncrt ∧ faultyNoncrt.faultFired = false ∧
      ∃ t, step faultyNoncrt = .next t ∧ t.faultFired = true) ∧
    (Consistent faultyBranchP ∧ HostIdle faultyBranchP ∧ faultyBranchP.faultFired = false ∧
      ∃ t, step faultyBranchP = .next t ∧ t.faultFired = true) ∧
    (Consistent faultyBranchQ ∧ HostIdle faultyBranchQ ∧ faultyBranchQ.faultFired = false ∧
      ∃ t, step faultyBranchQ = .next t ∧ t.faultFired = true) := by
  refine ⟨⟨?_, rfl, rfl, _, rfl, rfl⟩, ⟨?_, rfl, rfl, _, rfl, rfl⟩, ⟨?_, rfl, rfl, _, rfl, rfl⟩⟩
  · exact consistent_signing .noncrt 1 .expBranch1 _ rfl rfl ⟨rfl, rfl⟩ ⟨rfl, rfl⟩ rfl ⟨rfl, rfl, rfl, rfl⟩ rfl
      ⟨by decide, by decide⟩ ⟨_, _, rfl, rfl⟩ (by decide)
  · exact consistent_signing .crtDirect 4 .loadOperands _ rfl rfl ⟨rfl, rfl⟩ ⟨rfl, rfl⟩ rfl ⟨rfl, rfl, rfl, rfl⟩ rfl
      ⟨by decide, by decide⟩ ⟨_, _, rfl, rfl⟩ (by decide)
  · exact consistent_signing .crtDirect 2053 .expBranch2 _ rfl rfl ⟨rfl, rfl⟩ ⟨rfl, rfl⟩ rfl ⟨rfl, rfl, rfl, rfl⟩ rfl
      ⟨by decide, by decide⟩ ⟨_, _, rfl, rfl⟩ (by decide)

/-- `EngineStepRunsOneMicroOp`: a counted micro-op, a last one, and one with modulus 0. -/
theorem witness_EngineStepRunsOneMicroOp :
    (HostIdle (powering 0 []) ∧ ∃ t, step (powering 0 []) = .next t ∧ t.clock = 1#64) ∧
    (∃ t, step (powering 1024 []) = .next t ∧ t.running = none ∧ t.errModZero = false) ∧
    (∃ t, step (powering 1 [(Reg.N, 0)]) = .next t ∧ t.running = none ∧ t.errModZero = true) :=
  ⟨⟨rfl, _, rfl, rfl⟩, ⟨_, rfl, rfl, rfl⟩, ⟨_, rfl, rfl, rfl⟩⟩

/-- `ModexpRunsItsExpansion`: the copy, and both micro-ops of the first and the last round. -/
theorem witness_ModexpRunsItsExpansion :
    (∀ n, AcceptsNothing (powering n []) ∧
      (powering n []).running = some ⟨.modexp Reg.C Reg.M Reg.D Reg.N 512, n⟩) ∧
    ∀ n ∈ [0, 1, 2, 1023, 1024], ∃ i, ExpListing (powering n []) Reg.C Reg.M Reg.D Reg.N 512 n i := by
  refine ⟨fun n => ⟨acceptsNothing_of_idle rfl, rfl⟩, fun n h => ?_⟩
  simp only [List.mem_cons, List.not_mem_nil, or_false] at h
  rcases h with rfl | rfl | rfl | rfl | rfl
  · exact ⟨_, .inl ⟨rfl, rfl⟩⟩
  · exact ⟨_, .inr (.inl ⟨0, by omega, by omega, rfl⟩)⟩
  · exact ⟨_, .inr (.inr ⟨0, by omega, by omega, rfl⟩)⟩
  · exact ⟨_, .inr (.inl ⟨511, by omega, by omega, rfl⟩)⟩
  · exact ⟨_, .inr (.inr ⟨511, by omega, by omega, rfl⟩)⟩

/-- `SignRunsItsListings`: the first and the last position of `noncrt`, and of each stage of the CRT modes; the state of
`STATE` is free, COMBINE here. -/
theorem witness_SignRunsItsListings :
    (∀ mode n, AcceptsNothing (signing mode n .combine []) ∧
      (signing mode n .combine []).running = some ⟨.sign mode 512, n⟩) ∧
    (∀ s, SignListing s .noncrt 512 0 0 .expBranch1 (.copy false Reg.C Reg.ONE)) ∧
    (∀ s, ∃ i, SignListing s .noncrt 512 1024 1024 .expBranch1 i) ∧
    (∀ s, SignListing s .crtDirect 512 3 3 .loadOperands (.modCopy false Reg.B Reg.D Reg.SCRATCH1)) ∧
    (∀ s, SignListing s .crtDirect 512 4 0 .expBranch1 (.copy false Reg.POW Reg.ONE)) ∧
    (∀ s, SignListing s .crtDirect 512 1029 0 .expBranch2 (.copy false Reg.POW2 Reg.ONE)) ∧
    (∀ s, SignListing s .crtDirect 512 2060 6 .combine (.addMod false Reg.C Reg.SCRATCH1 Reg.SCRATCH2 Reg.N)) ∧
    (∀ s, SignListing s .crtShamir 512 8 8 .loadOperands (.modCopy false Reg.B Reg.D Reg.SCRATCH1)) ∧
    (∀ s, SignListing s .crtShamir 512 9 0 .expBranch1 (.copy false Reg.POW Reg.ONE)) ∧
    (∀ s, SignListing s .crtShamir 512 1034 0 .expBranch2 (.copy false Reg.POW2 Reg.ONE)) ∧
    (∀ s, SignListing s .crtShamir 512 2060 1 .consistencyCheck (.modCopy false Reg.SCRATCH2 Reg.POW2 Reg.T)) ∧
    (∀ s, SignListing s .crtShamir 512 2061 0 .combine (.modCopy false Reg.POW Reg.POW Reg.P)) ∧
    (∀ s, SignListing s .crtShamir 512 2069 8 .combine (.addMod false Reg.C Reg.SCRATCH1 Reg.SCRATCH2 Reg.N)) := by
  refine ⟨fun mode n => ⟨acceptsNothing_of_idle rfl, rfl⟩, fun s => ⟨rfl, rfl, .inl ⟨rfl, rfl⟩⟩,
    fun s => ⟨_, rfl, rfl, .inr (.inr ⟨511, by omega, by omega, rfl⟩)⟩, fun s => .inl ⟨rfl, rfl, _, rfl, rfl⟩,
    fun s => .inr (.inl ⟨rfl, rfl, .inl ⟨rfl, rfl⟩⟩), fun s => .inr (.inr (.inl ⟨rfl, rfl, .inl ⟨rfl, rfl⟩⟩)),
    fun s => .inr (.inr (.inr ⟨rfl, rfl, _, rfl, rfl⟩)), fun s => .inl ⟨rfl, rfl, _, rfl, rfl⟩,
    fun s => .inr (.inl ⟨rfl, rfl, .inl ⟨rfl, rfl⟩⟩), fun s => .inr (.inr (.inl ⟨rfl, rfl, .inl ⟨rfl, rfl⟩⟩)),
    fun s => .inr (.inr (.inr (.inl ⟨rfl, rfl, _, rfl, rfl⟩))),
    fun s => .inr (.inr (.inr (.inr ⟨rfl, rfl, _, rfl, rfl⟩))),
    fun s => .inr (.inr (.inr (.inr ⟨rfl, rfl, _, rfl, rfl⟩)))⟩

/-- `SignRunsItsListings`, its clause on consistent states, past the first micro-op of a stage: the check of P3 below
(`witness_ShamirMismatchEndsInFaultDetected`). `SignWritesOnlyItsRegisters`: a step of each mode, before and at the
last micro-op. -/
theorem witness_SignWritesOnlyItsRegisters :
    (∃ t, step (signing .noncrt 0 .loadOperands []) = .next t ∧ t.running ≠ none) ∧
    (∃ t, step (signing .crtDirect 2059 .combine [(Reg.C, 7)]) = .next t ∧ t.val Reg.C = 7) ∧
    (∃ t, step (signing .crtDirect 2060 .combine [(Reg.SCRATCH1, 2867), (Reg.SCRATCH2, 954)]) = .next t ∧
      t.val Reg.C = 588) ∧
    (∃ t, step (signing .crtShamir 2069 .combine [(Reg.SCRATCH1, 2867), (Reg.SCRATCH2, 954)]) = .next t ∧
      t.val Reg.C = 588) :=
  ⟨⟨_, rfl, by decide⟩, ⟨_, rfl, by decide⟩, ⟨_, rfl, by decide⟩, ⟨_, rfl, by decide⟩⟩

/-- `NoFaultWithin` by each of its three ways, at the edge of its range in the third. -/
theorem witness_NoFaultWithin :
    NoFaultWithin (powering 0 []) 1025 ∧ NoFaultWithin { powering 0 [] with faultCycle := 3#64, faultFired := true } 1025 ∧
      NoFaultWithin { powering 0 [] with faultCycle := 1026#64 } 1025 := by
  refine ⟨.inl rfl, .inr (.inl rfl), .inr (.inr fun j _ hj h => ?_)⟩
  have e := congrArg BitVec.toNat h
  have c : (powering 0 []).clock = 0#64 := rfl
  simp [c] at e
  omega

theorem witness_ModexpComputesThePower :
    (powering 0 []).running = some ⟨.modexp Reg.C Reg.M Reg.D Reg.N 512, 0⟩ ∧ HostIdle (powering 0 []) ∧ 0 < 512 ∧
      NoFaultWithin (powering 0 []) (1 + 2 * 512) ∧ (powering 0 []).val Reg.ONE = 1 ∧
      0 < (powering 0 []).val Reg.N ∧ Reg.C ≠ Reg.M ∧ Reg.C ≠ Reg.D ∧ Reg.C ≠ Reg.N ∧ Reg.C ≠ Reg.ONE :=
  ⟨rfl, rfl, by decide, .inl rfl, by decide, by decide, by decide, by decide, by decide, by decide⟩

theorem witness_ModexpHaltsOnModulusZero :
    (powering 0 [(Reg.N, 0)]).running = some ⟨.modexp Reg.C Reg.M Reg.D Reg.N 512, 0⟩ ∧
      HostIdle (powering 0 [(Reg.N, 0)]) ∧ NoFaultWithin (powering 0 [(Reg.N, 0)]) 1 ∧
      (powering 0 [(Reg.N, 0)]).val Reg.N = 0 ∧ Reg.C ≠ Reg.N ∧
      (powering 0 [(Reg.N, 0)]).errInfo.cause = none :=
  ⟨rfl, rfl, .inl rfl, by decide, by decide, rfl⟩

theorem witness_EveryMacroEndsWithItsCycleCount :
    (powering 0 []).running = some ⟨.modexp Reg.C Reg.M Reg.D Reg.N 512, 0⟩ ∧ HostIdle (powering 0 []) ∧
      ∀ mode, (signing mode 0 .loadOperands []).running = some ⟨.sign mode 512, 0⟩ ∧
        HostIdle (signing mode 0 .loadOperands []) := ⟨rfl, rfl, fun _ => ⟨rfl, rfl⟩⟩

/-- The check of P3 on a mismatch (9 against 10), and on agreement. -/
def checking (residue : Nat) : State :=
  signing .crtShamir (12 + 4 * 512) .consistencyCheck [(Reg.SCRATCH1, residue), (Reg.POW2, 164)]

theorem witness_ShamirMismatchEndsInFaultDetected :
    (∀ residue, Consistent (checking residue) ∧ AcceptsNothing (checking residue) ∧
      (checking residue).running = some ⟨.sign .crtShamir 512, 12 + 4 * 512⟩) ∧
    (checking 9).val Reg.T ≠ 0 ∧
    (checking 9).val Reg.SCRATCH1 ≠ (checking 9).val Reg.POW2 % (checking 9).val Reg.T ∧
    (checking 10).val Reg.T ≠ 0 ∧
    (checking 10).val Reg.SCRATCH1 = (checking 10).val Reg.POW2 % (checking 10).val Reg.T := by
  refine ⟨fun residue => ⟨?_, acceptsNothing_of_idle rfl, rfl⟩, by decide, by decide, by decide, by decide⟩
  exact consistent_signing .crtShamir (12 + 4 * 512) .consistencyCheck _ rfl rfl ⟨rfl, rfl⟩ ⟨rfl, rfl⟩ rfl
    ⟨rfl, rfl, rfl, rfl⟩ rfl ⟨by decide, by decide⟩ ⟨_, _, rfl, rfl⟩ (by decide)

/-- The hypotheses that the three `sign` statements share, with the textbook key and `M = 65`. -/
theorem witness_signs (mode : SignMode) :
    (signing mode 0 .loadOperands []).running = some ⟨.sign mode 512, 0⟩ ∧
      HostIdle (signing mode 0 .loadOperands []) ∧ 0 < 512 ∧
      (∀ n, NoFaultWithin (signing mode 0 .loadOperands []) n) ∧
      (signing mode 0 .loadOperands []).val Reg.ONE = 1 ∧ (signing mode 0 .loadOperands []).val Reg.P = 61 ∧
      (signing mode 0 .loadOperands []).val Reg.Q = 53 ∧ (signing mode 0 .loadOperands []).val Reg.N = 61 * 53 ∧
      (signing mode 0 .loadOperands []).val Reg.D = 2753 ∧ (signing mode 0 .loadOperands []).val Reg.M = 65 ∧
      (signing mode 0 .loadOperands []).val Reg.T = 11 := by
  cases mode <;>
    exact ⟨rfl, rfl, by decide, fun _ => .inl rfl, by decide, by decide, by decide, by decide, by decide, by decide,
      by decide⟩

/-- What `witness_signs` leaves: the arithmetic of the key, with `e = 17` and `r = 11`. -/
theorem witness_textbook_key :
    Nat.Prime 61 ∧ Nat.Prime 53 ∧ Nat.Prime 11 ∧ 61 ≠ 53 ∧ 11 < 61 ∧ 11 < 53 ∧
      2753 % (61 - 1) < 2 ^ 512 ∧ 2753 % (53 - 1) < 2 ^ 512 ∧ 2753 % ((61 - 1) * (11 - 1)) < 2 ^ 512 ∧
      2753 % ((53 - 1) * (11 - 1)) < 2 ^ 512 ∧ 2753 < 2 ^ 512 ∧
      65 < 61 * 53 ∧ 17 * 2753 % ((61 - 1) * (53 - 1)) = 1 ∧ (61 = 2 ∨ 53 = 2 → 65 % 2 = 1) := by
  have h : ∀ n, n < 2 ^ 12 → n < 2 ^ 512 := fun n hn =>
    lt_of_lt_of_le hn (pow_le_pow_right₀ one_le_two (show 12 ≤ 512 by decide))
  exact ⟨by norm_num, by norm_num, by norm_num, by decide, by decide, by decide, h _ (by decide), h _ (by decide),
    h _ (by decide), h _ (by decide), h _ (by decide), by decide, by decide, by decide⟩

/-- `SignCrtDirectVerifies` with the prime 2: `P = 2`, `Q = 3`, `D = e = 1`, and the odd `M = 5`, scanned by one bit. -/
theorem witness_even_prime :
    Nat.Prime 2 ∧ Nat.Prime 3 ∧ 2 ≠ 3 ∧ (2 = 2 ∨ 3 = 2 → 5 % 2 = 1) ∧ 1 % (2 - 1) < 2 ^ 1 ∧ 1 % (3 - 1) < 2 ^ 1 ∧
      5 < 2 * 3 ∧ 1 * 1 % ((2 - 1) * (3 - 1)) = 1 :=
  ⟨by norm_num, by norm_num, by decide, by decide, by decide, by decide, by decide, by decide⟩

/-- Two runs of two engine steps with other registers, fault settings and draws. -/
theorem witness_CycleCountIsIndependentOfData :
    ∃ t₁ t₂, Host.Core.run Sys2Proof.core 2 (powering 0 []) = .next t₁ ∧
      Host.Core.run Sys2Proof.core 2 { powering 0 [(Reg.M, 9)] with faultCycle := 9#64, draws := 3 } = .next t₂ ∧
      (powering 0 []).running = (powering 0 [(Reg.M, 9)]).running ∧
      t₁.phase = .loadOperands ∧ t₂.phase = .loadOperands :=
  ⟨_, _, rfl, rfl, rfl, rfl, rfl⟩

theorem witness_StepRunsTheDecodedInstruction :
    (State.reset.issued 0x90C00000#32 0).pending = ⟨0, .issue 0x90C00000#32 (Word.ofNat 0)⟩ :: [] ∧
      (State.reset.issued 0x90C00000#32 0).busy = false ∧
      (State.reset.issued 0x90C00000#32 0).phase.terminal = false ∧
      decode 0x90C00000#32 (Word.ofNat 0) = .instr (.tick Reg.POW) := ⟨rfl, rfl, rfl, rfl⟩

/-- `IllegalWordHaltsTheEngine` in INIT; `WrongStateIsRefusedWithSeq` in each terminal state. -/
theorem witness_refusals :
    (State.reset.issued 0xC0000000#32 0).busy = false ∧
      (State.reset.issued 0xC0000000#32 0).phase.terminal = false ∧
      decode 0xC0000000#32 (Word.ofNat 0) = .illegal ∧
    (∀ p ∈ [Phase.done, Phase.faultDetected, Phase.halted],
      ((State.reset.enterPhase p).issued 0xC0000000#32 0).busy = false ∧
        ((State.reset.enterPhase p).issued 0xC0000000#32 0).phase.terminal = true ∧
        p ≠ .init ∧ p ≠ .loadOperands) := by
  refine ⟨rfl, rfl, rfl, ?_⟩
  intro p h
  simp only [List.mem_cons, List.not_mem_nil, or_false] at h
  rcases h with rfl | rfl | rfl <;> exact ⟨rfl, rfl, by decide, by decide⟩

theorem witness_TerminalStateIsFrozen :
    ∃ t, step ((State.reset.enterPhase .done).issued 0x80500000#32 1) = .next t ∧ t.errSeq = true ∧
      (State.reset.enterPhase .done).running = none ∧
      AcceptsNoReset ((State.reset.enterPhase .done).issued 0x80500000#32 1) := by
  refine ⟨_, rfl, rfl, rfl, ?_⟩
  intro c rest h hc
  cases h
  cases hc

/-- The branches of `CsrWriteFollowsItsProcedure` where they meet: the largest legal and the smallest reserved value
of the two fields, and the first addresses past the writable ones. -/
theorem witness_CsrWriteFollowsItsProcedure :
    csrAfter (step (State.reset.told (.csrWrite 0x01#8 (~~~0#64)))) 0x01#8 = some (2 ^ 64 - 1) ∧
    csrAfter (step (State.reset.told (.csrWrite 0x02#8 2#64))) 0x06#8 = some 0 ∧
    csrAfter (step (State.reset.told (.csrWrite 0x02#8 3#64))) 0x06#8 = some 0x0000000200000004 ∧
    csrAfter (step (State.reset.told (.csrWrite 0x02#8 4#64))) 0x06#8 = some 0x0000000200000004 ∧
    csrAfter (step (State.reset.told (.csrWrite 0x03#8 3#64))) 0x06#8 = some 0 ∧
    csrAfter (step (State.reset.told (.csrWrite 0x03#8 4#64))) 0x06#8 = some 0x0000000300000004 ∧
    csrAfter (step (State.reset.told (.csrWrite 0x00#8 0#64))) 0x06#8 = some 4 ∧
    csrAfter (step (State.reset.told (.csrWrite 0x04#8 0#64))) 0x06#8 = some 0x0000000400000004 := by decide

/-- `HostReadsDisturbNothing` and `ResetSetsEveryElement` between two micro-ops, and outside a macro with a wait. -/
theorem witness_reads_and_reset :
    (powering 5 []).busy = true ∧ ((powering 5 []).told (.csrRead 0xFF#8)).pending = ⟨0, .csrRead 0xFF#8⟩ :: [] ∧
      ((powering 5 []).told (.regRead 15)).pending = ⟨0, .regRead 15⟩ :: [] ∧
      ((powering 5 []).told .reset).pending = ⟨0, .reset⟩ :: [] ∧
      ((ready []).setPending [⟨7, .reset⟩]).busy = false := ⟨rfl, rfl, rfl, rfl, rfl⟩

/-- `ResetSetsEveryElement`, the clause on the CSRs: a state at reset with a reply and a draw behind it. -/
theorem witness_AtReset : AtReset { State.reset with replies := [.csr 0x80#8 0#64], draws := 3 } := by
  constructor
  · intro r
    show State.reset.val r = 0
    revert r
    decide
  all_goals decide

/-- A held ISSUE and a held CSR write, the second not yet arrived. -/
theorem witness_HeldCommandStaysPending :
    (∃ t, step ((powering 5 []).issued 0x90C00000#32 0) = .next t) ∧
    (∃ t, step ((powering 5 []).setPending [⟨3, .csrWrite 0x01#8 9#64⟩]) = .next t) ∧ (powering 5 []).busy = true :=
  ⟨⟨_, rfl⟩, ⟨_, rfl⟩, rfl⟩

/-- Every flag set: the premises of `StickyFlagsAreClearedOnlyByReset` together. -/
def flagged : State :=
  { State.reset.enterPhase .halted with
    faultFired := true, faultDetected := true, nonInv := true, errIllegal := true, errModZero := true, errSeq := true
    errCsr := true, signActive := true, errInfo := ⟨some .csr, 3#32⟩ }

theorem witness_StickyFlagsAreClearedOnlyByReset :
    (∃ t, step (flagged.issued 0x90C00000#32 0) = .next t) ∧ flagged.errInfo.cause ≠ none ∧ flagged.faultFired = true ∧
      flagged.faultDetected = true ∧ flagged.nonInv = true ∧ flagged.errIllegal = true ∧ flagged.errModZero = true ∧
      flagged.errSeq = true ∧ flagged.errCsr = true ∧ flagged.signActive = true :=
  ⟨⟨_, rfl⟩, by decide, rfl, rfl, rfl, rfl, rfl, rfl, rfl, rfl⟩

/-- `StepCountsAtMostOneCycle` with `CLOCK` advanced, and standing under a load with `NC = 1`. -/
theorem witness_StepCountsAtMostOneCycle :
    (∃ t, step ticking = .next t ∧ t.clock = ticking.clock + 1#64) ∧
    (∃ t, step ((ready []).issued 0x88500000#32 1) = .next t ∧ t.clock = (ready []).clock ∧ t.val 5 ≠ (ready []).val 5) ∧
    AcceptsNoReset ticking := by
  refine ⟨⟨_, rfl, rfl⟩, ⟨_, rfl, rfl, by decide⟩, ?_⟩
  intro c rest h hc
  cases h
  cases hc

/-- `OnlyTheHostWritesTheConfiguration`: a step that changes it, and one that does not. -/
theorem witness_OnlyTheHostWritesTheConfiguration :
    (∃ t, step (State.reset.told (.csrWrite 0x01#8 5#64)) = .next t ∧ t.faultCycle ≠ State.reset.faultCycle) ∧
    AcceptsNoReset (State.reset.told (.csrWrite 0x01#8 5#64)) := by
  refine ⟨⟨_, rfl, by decide⟩, ?_⟩
  intro c rest h hc
  cases h
  cases hc

/-- `StepKeepsConsistency` and `ConsistentStateAlwaysSteps`: a running and an idle consistent state that step. -/
theorem witness_StepKeepsConsistency :
    (Consistent (checking 9) ∧ ∃ t, step (checking 9) = .next t) ∧
    (Consistent (ready textbook) ∧ ∃ t, step (ready textbook) = .next t) := by
  refine ⟨⟨(witness_ShamirMismatchEndsInFaultDetected.1 9).1, _, rfl⟩, ?_, _, rfl⟩
  refine ⟨?_, fun _ => .inr (.inl rfl), ?_, ?_, ⟨?_, ?_⟩, ⟨?_, ?_⟩, ⟨fun _ => ⟨rfl, rfl, rfl, rfl⟩, fun _ => rfl⟩,
    fun _ => rfl, ?_⟩
  · intro r h
    cases h
  all_goals
    intro h
    first
      | (cases h; done)
      | (rcases h with h | h <;> cases h)

end Sys2Proof.Machine
end

/-! PROOFS of the family 10_state.md. What one step leaves behind: the invariant `Consistent`, what no step but a
`RESET` changes, and the CSR fields. -/

namespace Sys2Proof.Machine

/-! ## The two kinds of instruction -/

/-- An instruction is a primitive, or its whole effect is the issue of its macro (R191, R210). -/
theorem exec_cases {i : Instr} {s t : State} (h : exec i s = .next t) :
    i.isPrimitive = true ∨
    (∃ rd ra rb rm, i = .modexp rd ra rb rm ∧ t = s.startRunning (.modexp rd ra rb rm s.scanWidth)) ∨
    (∃ mode, i.isSign = true ∧ t = s.startSign mode) := by
  cases i with
  | modexp rd ra rb rm => cases h; exact .inr (.inl ⟨rd, ra, rb, rm, rfl, rfl⟩)
  | signNoncrt => cases h; exact .inr (.inr ⟨_, rfl, rfl⟩)
  | signCrtDirect => cases h; exact .inr (.inr ⟨_, rfl, rfl⟩)
  | signCrtShamir => cases h; exact .inr (.inr ⟨_, rfl, rfl⟩)
  | _ => exact .inl rfl

/-- No `sign` is a primitive. -/
theorem isSign_of_isPrimitive {i : Instr} (h : i.isPrimitive = true) : i.isSign = false := by
  cases i <;> simp [Instr.isPrimitive, Instr.isSign] at h ⊢

/-- A micro-op is a primitive with `NC = 0` (R114). -/
theorem isMicroOp_iff (i : Instr) : i.isMicroOp = true ↔ i.isPrimitive = true ∧ i.noCount = false := by
  simp [Instr.isMicroOp]

/-! ## States between macros and inside one -/

theorem busy_eq_false_iff (s : State) : s.busy = false ↔ s.running = none := by
  simp [State.busy]

theorem acceptsCsrWrite_iff (p : Phase) : p.acceptsCsrWrite = true ↔ p = .init ∨ p = .loadOperands := by
  cases p <;> simp [Phase.acceptsCsrWrite]

/-- Every macro has a first micro-op. -/
theorem total_pos (ctx : MacroContext) : 0 < ctx.total := by
  rw [total_eq_cyclesOf]
  cases ctx with
  | modexp => simp [cyclesOf]
  | sign mode => cases mode <;> simp [cyclesOf]

/-- `K` is one of the four widths that `CONFIG` gives (R44). -/
theorem scanWidth_legal (s : State) : LegalWidth s.scanWidth := by
  unfold State.scanWidth State.bitLength LegalWidth
  cases s.configBw <;> cases s.configXbit <;> decide

/-- Each stage of a `sign` begins with a `STATE` of its own, none of them INIT or terminal (R213, R214, R218). -/
theorem sign_stage_enters {mode : SignMode} {k : Nat} {g : Stage} (h : g ∈ stages (.sign mode k)) :
    ∃ p, g.enters = some p ∧ p ≠ .init ∧ p.terminal = false := by
  have listed : ∀ m, ∀ x ∈ (stages (.sign m k)).map Stage.enters,
      ∃ p, x = some p ∧ p ≠ .init ∧ p.terminal = false := by
    intro m
    cases m <;> simp [stages, Phase.terminal]
  exact listed mode g.enters (List.mem_map_of_mem h)

/-- The stage of `modexp` assigns no `STATE` (R191). -/
theorem modexp_stage_enters {rd ra rb rm : Reg} {k : Nat} {g : Stage} (h : g ∈ stages (.modexp rd ra rb rm k)) :
    g.enters = none := by
  simp only [stages, List.mem_singleton] at h
  rw [h]

theorem enterStage_of_none (s : State) {g : Stage} (off : Nat) (h : g.enters = none) : s.enterStage g off = s := by
  simp [State.enterStage, h]

theorem enterStage_of_some (s : State) {g : Stage} {p : Phase} (off : Nat) (h : g.enters = some p) :
    s.enterStage g off = if off = 0 then s.enterPhase p else s := by
  simp [State.enterStage, h]

/-- The beginning of a stage changes `STATE` alone. -/
theorem enterStage_eq (s : State) (g : Stage) (off : Nat) : ∃ p, s.enterStage g off = s.enterPhase p := by
  cases h : g.enters with
  | none => exact ⟨s.phase, enterStage_of_none s off h⟩
  | some p =>
    rw [enterStage_of_some s off h]
    split
    · exact ⟨p, rfl⟩
    · exact ⟨s.phase, rfl⟩

/-! ## The error and fault records -/

/-- Each record holds a value exactly when its flags say so (R46, R252): the part of `Consistent` that no control
position enters. -/
structure RecordsAgree (s : State) : Prop where
  noError : s.errInfo.cause = none ↔
    (s.errIllegal = false ∧ s.errModZero = false ∧ s.errSeq = false ∧ s.errCsr = false)
  noFault : s.faultFired = false → s.faultInfo = ⟨0#10, 0⟩

theorem Consistent.recordsAgree {s : State} (h : Consistent s) : RecordsAgree s := ⟨h.noError, h.noFault⟩

/-- The one-shot guard stays closed (R51, R138). -/
theorem Retired.faultFired {s t : State} {nc : Bool} {rd : Reg} {v : Nat} (h : Retired s t nc rd v)
    (hf : s.faultFired = true) : SameFaultRecord s t := by
  cases nc with
  | true => exact (h.uncounted rfl).2.2
  | false =>
    have notDue : ¬ FaultDue s := fun d => by
      obtain ⟨-, -, fresh, -⟩ := d
      simp [hf] at fresh
    exact (h.quiet rfl notDue).2

/-- A primitive that leaves the guard open has left the record alone. -/
theorem Retired.not_fired {s t : State} {nc : Bool} {rd : Reg} {v : Nat} (h : Retired s t nc rd v)
    (hf : t.faultFired = false) : SameFaultRecord s t := by
  cases nc with
  | true => exact (h.uncounted rfl).2.2
  | false =>
    by_cases due : FaultDue s
    · rw [(h.faulted rfl due).1] at hf
      cases hf
    · exact (h.quiet rfl due).2

theorem RecordsAgree.retired {s t : State} {nc : Bool} {rd : Reg} {v : Nat} (hs : RecordsAgree s)
    (h : Retired s t nc rd v) : RecordsAgree t := by
  obtain ⟨illegal, modZero, seq, csr, info⟩ := h.errors
  refine ⟨by rw [illegal, modZero, seq, csr, info]; exact hs.noError, fun hf => ?_⟩
  obtain ⟨fired, place⟩ := h.not_fired hf
  rw [place]
  exact hs.noFault (fired ▸ hf)

theorem RecordsAgree.errorTaken {s t : State} {cause : ErrorCause} {info : BitVec 32} (hs : RecordsAgree s)
    (h : ErrorTaken s t cause info) : RecordsAgree t := by
  have recorded : t.errInfo.cause ≠ none := by
    by_cases first : s.errInfo.cause = none
    · simp [h.first first]
    · rwa [h.later first]
  have flagged : ¬ (t.errIllegal = false ∧ t.errModZero = false ∧ t.errSeq = false ∧ t.errCsr = false) := by
    rw [h.illegalBit, h.modZeroBit, h.seqBit, h.csrBit]
    cases cause <;> simp
  obtain ⟨fired, place⟩ := h.fault
  refine ⟨iff_of_false recorded flagged, fun hf => ?_⟩
  rw [place]
  exact hs.noFault (fired ▸ hf)

/-! ## The invariant outside a macro's step -/

/-- The invariant reads nothing of the configuration, of the host's list or of the model's own records. -/
theorem Consistent.with_host_fields {s : State} (h : Consistent s) (cycle : CsrWord) (branch : FaultBranch)
    (bw xbit : Bool) (pending : List PendingCommand) (replies : List Reply) (draws : Nat) :
    Consistent { s with
      faultCycle := cycle, faultBranch := branch, configBw := bw, configXbit := xbit, pending := pending
      replies := replies, draws := draws } :=
  ⟨h.running, h.idle, h.signed, h.done, h.detected, h.halted, h.noError, h.noFault, h.fresh⟩

theorem Consistent.setPending {s : State} (h : Consistent s) (l : List PendingCommand) :
    Consistent (s.setPending l) := h.with_host_fields ..

/-- The invariant holds after reset (R291). -/
theorem reset_consistent : Consistent State.reset where
  running _ h := by cases h
  idle _ := .inl rfl
  signed h := by cases h
  done h := by cases h
  detected := by decide
  halted := by decide
  noError := by decide
  noFault _ := rfl
  fresh _ := ⟨fun _ => rfl, rfl, rfl, rfl⟩

theorem resetEngine_consistent (s : State) : Consistent s.resetEngine := reset_consistent.with_host_fields ..

/-- With the control position, the signing flags and the halting errors kept, what is left of the invariant is the
records and what INIT promises. -/
theorem Consistent.of_same_control {s t : State} (hs : Consistent s) (phase : t.phase = s.phase)
    (running : t.running = s.running) (signing : SameSigning s t) (illegal : t.errIllegal = s.errIllegal)
    (modZero : t.errModZero = s.errModZero) (records : RecordsAgree t)
    (fresh : t.phase = .init → SameRegs State.reset t ∧ t.clock = 0#64 ∧ t.nonInv = false ∧ t.faultFired = false) :
    Consistent t := by
  obtain ⟨active, mode, detected⟩ := signing
  refine ⟨?_, ?_, ?_, ?_, ?_, ?_, records.noError, records.noFault, fresh⟩
  · rw [running]
    intro r hr
    simpa only [PhaseAgrees, phase, active, mode] using hs.running r hr
  · rw [running, phase]; exact hs.idle
  · rw [running, phase, active]; exact hs.signed
  · rw [phase, active]; exact hs.done
  · rw [phase, detected]; exact hs.detected
  · rw [phase, illegal, modZero]; exact hs.halted

/-- A refused command changes nothing the invariant reads but the errors that do not halt. -/
theorem Consistent.refused {s t : State} {cause : ErrorCause} {info : BitVec 32} (hs : Consistent s)
    (h : ErrorTaken s t cause info) (hc : cause = .seq ∨ cause = .csr) : Consistent t := by
  obtain ⟨phase, running⟩ := h.refusal hc
  have illegal : t.errIllegal = s.errIllegal := by rw [h.illegalBit]; rcases hc with rfl | rfl <;> simp
  have modZero : t.errModZero = s.errModZero := by rw [h.modZeroBit]; rcases hc with rfl | rfl <;> simp
  refine hs.of_same_control phase running h.signing illegal modZero (hs.recordsAgree.errorTaken h) fun hp => ?_
  obtain ⟨regs, clock, nonInv, fired⟩ := hs.fresh (phase ▸ hp)
  exact ⟨fun r => (h.regs r).trans (regs r), h.clock.trans clock, h.nonInv.trans nonInv, h.fault.1.trans fired⟩

/-- A primitive run outside INIT keeps the invariant. -/
theorem Consistent.retired {s t : State} {nc : Bool} {rd : Reg} {v : Nat} (hs : Consistent s)
    (hp : s.phase ≠ .init) (h : Retired s t nc rd v) : Consistent t := by
  obtain ⟨phase, running, -, -⟩ := h.control
  obtain ⟨illegal, modZero, -, -, -⟩ := h.errors
  exact hs.of_same_control phase running h.signing illegal modZero (hs.recordsAgree.retired h)
    fun hi => absurd (phase ▸ hi) hp

/-- An error that halts leaves a consistent state from any position, a macro's step too, where no mismatch had been
detected before. -/
theorem ErrorTaken.halted_consistent {s t : State} {cause : ErrorCause} {info : BitVec 32}
    (h : ErrorTaken s t cause info) (hc : cause = .illegal ∨ cause = .modZero) (hs : RecordsAgree s)
    (hd : s.faultDetected = false) : Consistent t := by
  obtain ⟨phase, running⟩ := h.halt hc
  obtain ⟨-, -, detected⟩ := h.signing
  have records := hs.errorTaken h
  have flagged : t.errIllegal = true ∨ t.errModZero = true := by
    rw [h.illegalBit, h.modZeroBit]
    rcases hc with rfl | rfl <;> simp
  refine ⟨?_, ?_, ?_, ?_, ?_, ?_, records.noError, records.noFault, ?_⟩
  · simp [running]
  · simp [phase, Phase.terminal]
  · simp [phase, Phase.terminal]
  · simp [phase]
  · simp [phase, detected, hd]
  · simp [phase, flagged]
  · simp [phase]

/-- Outside the terminal states no mismatch has been detected (R221) and nothing has halted (R252). -/
theorem Consistent.not_detected {s : State} (h : Consistent s) (ht : s.phase.terminal = false) :
    s.faultDetected = false := by
  by_contra hd
  rw [h.detected.mpr (by simpa using hd)] at ht
  cases ht

theorem Consistent.not_halted {s : State} (h : Consistent s) (ht : s.phase.terminal = false) :
    s.errIllegal = false ∧ s.errModZero = false := by
  by_contra hd
  have : s.errIllegal = true ∨ s.errModZero = true := by
    rw [← Bool.not_eq_true, ← Bool.not_eq_true] at hd
    tauto
  rw [h.halted.mpr this] at ht
  cases ht

/-! ## The invariant inside the step of a micro-op -/

/-- `STATE` and the signing flags as a micro-op of the stage `g` sees them. `PhaseAgrees` speaks of the stage of
the micro-op before it, which differs at a stage's edge. -/
def StageShown (s : State) (r : Running) (g : Stage) : Prop :=
  match r.mctx with
  | .modexp _ _ _ _ _ => s.phase = .loadOperands ∧ s.signActive = false
  | .sign mode _ => s.signActive = true ∧ s.signMode = mode ∧ g.enters = some s.phase

/-- The invariant between the actions of one engine step, with the macro `r` at a micro-op of its stage `g`. -/
structure MidStep (s : State) (r : Running) (g : Stage) : Prop where
  running : s.running = some r
  inside : r.seq < r.mctx.total
  width : LegalWidth r.mctx.width
  shown : StageShown s r g
  notDetected : s.faultDetected = false
  notHalted : s.errIllegal = false ∧ s.errModZero = false
  records : RecordsAgree s

/-- The state of a stage is neither INIT nor terminal. -/
theorem StageShown.active {s : State} {r : Running} {g : Stage} (h : StageShown s r g) (hg : g ∈ stages r.mctx) :
    s.phase ≠ .init ∧ s.phase.terminal = false := by
  obtain ⟨ctx, n⟩ := r
  cases ctx with
  | modexp rd ra rb rm k =>
    obtain ⟨phase, -⟩ := h
    simp [phase, Phase.terminal]
  | sign mode k =>
    obtain ⟨-, -, enters⟩ := h
    obtain ⟨p, hp, notInit, notTerminal⟩ := sign_stage_enters hg
    rw [enters, Option.some_inj] at hp
    exact ⟨hp ▸ notInit, hp ▸ notTerminal⟩

/-- A running macro shows no terminal state. -/
theorem PhaseAgrees.not_terminal {s : State} {r : Running} (h : PhaseAgrees s r) : s.phase.terminal = false := by
  obtain ⟨ctx, n⟩ := r
  cases ctx with
  | modexp rd ra rb rm k => rw [h.1]; rfl
  | sign mode k =>
    obtain ⟨-, -, atFirst, later⟩ := h
    by_cases hn : n = 0
    · rcases atFirst hn with hp | hp <;> rw [hp] <;> rfl
    · obtain ⟨g, off, hl, enters⟩ := later hn
      obtain ⟨p, hp, -, notTerminal⟩ := sign_stage_enters (locate_spec hl).1
      rw [enters, Option.some_inj] at hp
      exact hp ▸ notTerminal

/-- Once the step of a micro-op has begun, `STATE` is that of the micro-op's stage (R213, R214, R218). -/
theorem PhaseAgrees.stageShown {s : State} {r : Running} {g : Stage} {off : Nat} (h : PhaseAgrees s r)
    (hl : locate r.mctx.width (stages r.mctx) r.seq = some (g, off)) : StageShown (s.enterStage g off) r g := by
  obtain ⟨ctx, n⟩ := r
  have hg : g ∈ stages ctx := (locate_spec hl).1
  cases ctx with
  | modexp rd ra rb rm k =>
    rw [enterStage_of_none s off (modexp_stage_enters hg)]
    exact h
  | sign mode k =>
    obtain ⟨active, hm, -, later⟩ := h
    obtain ⟨p, hp, -, -⟩ := sign_stage_enters hg
    rw [enterStage_of_some s off hp]
    cases off with
    | zero => exact ⟨active, hm, hp⟩
    | succ j =>
      have later_than_first : 0 < n := Nat.lt_of_lt_of_le j.succ_pos (locate_off_le hl)
      obtain ⟨m, rfl⟩ := Nat.exists_eq_add_one.mpr later_than_first
      obtain ⟨g', off', hl', enters⟩ := later (Nat.succ_ne_zero m)
      rw [show locate k _ (m + 1 - 1) = some (g, j) from locate_pred hl, Option.some_inj, Prod.mk.injEq] at hl'
      exact ⟨active, hm, hl'.1 ▸ enters⟩

/-- The step of a micro-op begins with the invariant. -/
theorem Consistent.midStep {s : State} {r : Running} {g : Stage} {off : Nat} (h : Consistent s)
    (hr : s.running = some r) (hl : locate r.mctx.width (stages r.mctx) r.seq = some (g, off)) :
    MidStep (s.enterStage g off) r g := by
  obtain ⟨inside, width, agrees⟩ := h.running r hr
  have shown := agrees.stageShown hl
  obtain ⟨p, hp⟩ := enterStage_eq s g off
  rw [hp] at shown ⊢
  exact ⟨hr, inside, width, shown, h.not_detected agrees.not_terminal, h.not_halted agrees.not_terminal,
    h.noError, h.noFault⟩

/-- The micro-op itself keeps it, where it completes. -/
theorem MidStep.retired {s t : State} {r : Running} {g : Stage} {nc : Bool} {rd : Reg} {v : Nat}
    (hs : MidStep s r g) (h : Retired s t nc rd v) : MidStep t r g := by
  obtain ⟨phase, running, -, -⟩ := h.control
  obtain ⟨active, mode, detected⟩ := h.signing
  obtain ⟨illegal, modZero, -, -, -⟩ := h.errors
  refine ⟨running.trans hs.running, hs.inside, hs.width, ?_, detected.trans hs.notDetected,
    ⟨illegal.trans hs.notHalted.1, modZero.trans hs.notHalted.2⟩, hs.records.retired h⟩
  simpa only [StageShown, phase, active, mode] using hs.shown

/-- The compare's mismatch ends the macro in a consistent state (R221). -/
theorem MidStep.detectFault_consistent {s : State} {r : Running} {g : Stage} (h : MidStep s r g) :
    Consistent s.detectFault := by
  refine ⟨?_, ?_, ?_, ?_, ?_, ?_, h.records.noError, h.records.noFault, ?_⟩ <;>
    simp [State.detectFault, Phase.terminal, h.notHalted]

/-- A macro's end leaves a consistent state (R191, R213, R214, R218). -/
theorem MidStep.finish_consistent {s : State} {r : Running} {g : Stage} (h : MidStep s r g) :
    Consistent (s.finish r.mctx) := by
  obtain ⟨ctx, n⟩ := r
  cases ctx with
  | modexp rd ra rb rm k =>
    obtain ⟨phase, active⟩ : s.phase = .loadOperands ∧ s.signActive = false := h.shown
    refine ⟨?_, ?_, ?_, ?_, ?_, ?_, h.records.noError, h.records.noFault, ?_⟩ <;>
      simp [State.finish, phase, active, h.notDetected, h.notHalted]
  | sign mode k =>
    obtain ⟨active, -, -⟩ := h.shown
    refine ⟨?_, ?_, ?_, ?_, ?_, ?_, h.records.noError, h.records.noFault, ?_⟩ <;>
      simp [State.finish, Phase.terminal, active, h.notDetected, h.notHalted]

/-- The state of this micro-op's stage is the one that `PhaseAgrees` asks of the next position (R213, R214, R218). -/
theorem StageShown.phaseAgrees_next {s : State} {r : Running} {g : Stage} {off : Nat} (h : StageShown s r g)
    (hl : locate r.mctx.width (stages r.mctx) r.seq = some (g, off)) :
    PhaseAgrees (s.continueAt r.mctx (r.seq + 1)) ⟨r.mctx, r.seq + 1⟩ := by
  obtain ⟨ctx, n⟩ := r
  cases ctx with
  | modexp rd ra rb rm k => exact h
  | sign mode k =>
    obtain ⟨active, hm, enters⟩ := h
    exact ⟨active, hm, fun hz => absurd hz n.succ_ne_zero, fun _ => ⟨g, off, hl, enters⟩⟩

/-- A `sign` flag set inside a step is that of the running `sign`. -/
theorem StageShown.sign_of_signActive {s : State} {r : Running} {g : Stage} (h : StageShown s r g)
    (active : s.signActive = true) : ∃ mode k, r.mctx = .sign mode k := by
  obtain ⟨ctx, n⟩ := r
  cases ctx with
  | modexp rd ra rb rm k => simp [h.2] at active
  | sign mode k => exact ⟨mode, k, rfl⟩

/-- The next position of the macro is a consistent state. -/
theorem MidStep.continueAt_consistent {s : State} {r : Running} {g : Stage} {off : Nat} (h : MidStep s r g)
    (hl : locate r.mctx.width (stages r.mctx) r.seq = some (g, off)) (hn : r.seq + 1 ≠ r.mctx.total) :
    Consistent (s.continueAt r.mctx (r.seq + 1)) := by
  obtain ⟨notInit, notTerminal⟩ := h.shown.active (locate_spec hl).1
  have notPhase {p : Phase} (hp : p.terminal = true) : s.phase ≠ p := by
    rintro rfl
    simp [notTerminal] at hp
  refine ⟨?_, ?_, ?_, ?_, ?_, ?_, h.records.noError, h.records.noFault, ?_⟩
  · rintro r' ⟨⟩
    exact ⟨Nat.lt_of_le_of_ne h.inside hn, h.width, h.shown.phaseAgrees_next hl⟩
  · simp
  · intro active
    obtain ⟨mode, k, hc⟩ := h.shown.sign_of_signActive active
    exact .inr ⟨mode, k, _, by rw [hc]; rfl⟩
  · exact fun hp => absurd hp (notPhase rfl)
  · exact iff_of_false (notPhase rfl) (by simp [h.notDetected])
  · exact iff_of_false (notPhase rfl) (by simp [h.notHalted])
  · exact fun hp => absurd hp notInit

/-- Whatever the sequencer does after a completed micro-op leaves a consistent state. -/
theorem MidStep.afterMicroOp_consistent {s : State} {r : Running} {g : Stage} {off : Nat} (h : MidStep s r g)
    (hl : locate r.mctx.width (stages r.mctx) r.seq = some (g, off)) : Consistent (s.afterMicroOp r g off) := by
  rcases afterMicroOp_cases s r g off with
    ⟨stopped, -⟩ | ⟨-, -, -, -, e⟩ | ⟨-, -, e⟩ | ⟨-, more, e⟩
  · rw [h.running] at stopped
    cases stopped
  · rw [e]; exact h.detectFault_consistent
  · rw [e]; exact h.finish_consistent
  · rw [e]; exact h.continueAt_consistent hl more

/-- An engine step keeps the invariant. -/
theorem Consistent.engineStep {s t : State} (hs : Consistent s) (h : engineStep s = .next t) : Consistent t := by
  rcases engineStep_cases h with ⟨-, rfl⟩ | ⟨r, g, off, i, u, hr, hl, -, hi, hu, rfl⟩
  · exact hs
  have mid := hs.midStep hr hl
  rcases exec_primitive_cases ((isMicroOp_iff i).mp hi).1 hu with ⟨rd, v, retired, -⟩ | error
  · exact (mid.retired retired).afterMicroOp_consistent hl
  · have stopped : u.running = none := (error.halt (.inr rfl)).2
    rw [State.afterMicroOp, if_pos stopped]
    exact error.halted_consistent (.inr rfl) mid.records mid.notDetected

/-! ## The invariant under the host's commands -/

/-- Between macros, outside the terminal states, no `sign` has been issued (R210). -/
theorem Consistent.not_signed {s : State} (h : Consistent s) (hr : s.running = none)
    (ht : s.phase.terminal = false) : s.signActive = false := by
  by_contra hs
  rcases h.signed (by simpa using hs) with terminal | ⟨mode, k, n, run⟩
  · rw [ht] at terminal
    cases terminal
  · rw [hr] at run
    cases run

/-- The first instruction's move to LOAD_OPERANDS keeps the invariant (R73). -/
theorem Consistent.beginInstruction {s : State} (h : Consistent s) (hr : s.running = none) (i : Instr) :
    Consistent (s.beginInstruction i) := by
  rcases beginInstruction_cases s i with ⟨e, -⟩ | ⟨e, -, hp⟩
  · rwa [e]
  have notTerminal : s.phase.terminal = false := by rw [hp]; rfl
  rw [e]
  refine ⟨?_, ?_, ?_, ?_, ?_, ?_, h.noError, h.noFault, ?_⟩ <;>
    simp [hr, h.not_signed hr notTerminal, h.not_detected notTerminal, h.not_halted notTerminal]

/-- The beginning of an instruction issues no macro and enters no terminal state; what is no `sign` has left INIT. -/
theorem beginInstruction_spec (s : State) (i : Instr) :
    (s.beginInstruction i).running = s.running ∧
    (s.phase.terminal = false → (s.beginInstruction i).phase.terminal = false) ∧
    (i.isSign = false → (s.beginInstruction i).phase ≠ .init) := by
  rcases beginInstruction_cases s i with ⟨e, hs⟩ | ⟨e, -, -⟩
  · rw [e]
    refine ⟨rfl, id, fun hi => hs.resolve_left ?_⟩
    simp [hi]
  · rw [e]
    exact ⟨rfl, fun _ => rfl, fun _ hp => by cases hp⟩

/-- The issue of `modexp` in LOAD_OPERANDS keeps the invariant (R191). -/
theorem Consistent.issue_modexp {s : State} (h : Consistent s) (hr : s.running = none)
    (hp : s.phase = .loadOperands) (rd ra rb rm : Reg) :
    Consistent (s.startRunning (.modexp rd ra rb rm s.scanWidth)) := by
  have notTerminal : s.phase.terminal = false := by rw [hp]; rfl
  have notSigned := h.not_signed hr notTerminal
  refine ⟨?_, ?_, ?_, h.done, h.detected, h.halted, h.noError, h.noFault, h.fresh⟩
  · rintro r ⟨⟩
    exact ⟨total_pos _, scanWidth_legal s, hp, notSigned⟩
  · simp
  · simp [notSigned]

/-- The issue of a `sign` in INIT or LOAD_OPERANDS keeps the invariant (R210). -/
theorem Consistent.issue_sign {s : State} (h : Consistent s) (hp : s.phase = .init ∨ s.phase = .loadOperands)
    (mode : SignMode) : Consistent (s.startSign mode) := by
  refine ⟨?_, ?_, ?_, ?_, h.detected, h.halted, h.noError, h.noFault, h.fresh⟩
  · rintro r ⟨⟩
    exact ⟨total_pos _, scanWidth_legal s, rfl, rfl, fun _ => hp, fun hn => absurd rfl hn⟩
  · simp [State.startSign]
  · exact fun _ => .inr ⟨mode, _, 0, rfl⟩
  · simp [State.startSign]

/-- An accepted `ISSUE` keeps the invariant. -/
theorem Consistent.acceptIssue {s t : State} {w : InstrWord} {imm : Word} (hs : Consistent s)
    (hr : s.running = none) (h : acceptIssue w imm s = .next t) : Consistent t := by
  rcases acceptIssue_cases h with ⟨-, rfl⟩ | ⟨ht, -, rfl⟩ | ⟨ht, i, -, hx⟩
  · exact hs.refused (raiseError_errorTaken s .seq w) (.inl rfl)
  · exact (raiseError_errorTaken s .illegal w).halted_consistent (.inl rfl) hs.recordsAgree (hs.not_detected ht)
  have begun := hs.beginInstruction hr i
  obtain ⟨running, notTerminal, notInit⟩ := beginInstruction_spec s i
  replace running := running.trans hr
  replace notTerminal := notTerminal ht
  have idle : (s.beginInstruction i).phase = .init ∨ (s.beginInstruction i).phase = .loadOperands := by
    simpa [notTerminal] using begun.idle running
  rcases exec_cases hx with hp | ⟨rd, ra, rb, rm, rfl, rfl⟩ | ⟨mode, -, rfl⟩
  · rcases exec_primitive_cases hp hx with ⟨rd, v, retired, -⟩ | error
    · exact begun.retired (notInit (isSign_of_isPrimitive hp)) retired
    · exact error.halted_consistent (.inr rfl) begun.recordsAgree (begun.not_detected notTerminal)
  · exact begun.issue_modexp running (idle.resolve_left (notInit rfl)) rd ra rb rm
  · exact begun.issue_sign idle mode

/-- An accepted CSR write keeps the invariant. -/
theorem Consistent.acceptCsrWrite {s : State} (hs : Consistent s) (addr : CsrAddr) (value : CsrWord) :
    Consistent (s.acceptCsrWrite addr value) := by
  rcases acceptCsrWrite_cases s addr value with
    ⟨-, e⟩ | ⟨-, -, e⟩ | ⟨-, -, b, -, e⟩ | ⟨-, -, -, e⟩ | ⟨-, e⟩ <;> rw [e]
  · exact hs.refused (raiseError_errorTaken ..) (.inl rfl)
  · exact hs.with_host_fields ..
  · exact hs.with_host_fields ..
  · exact hs.with_host_fields ..
  · exact hs.refused (raiseError_errorTaken ..) (.inr rfl)

/-- An accepted command keeps the invariant; an `ISSUE` is accepted with `BUSY = 0` (R74). -/
theorem Consistent.acceptCommand {s t : State} {c : HostCommand} (hs : Consistent s)
    (hb : c.held = true → s.running = none) (h : acceptCommand c s = .next t) : Consistent t := by
  cases c with
  | reset => cases h; exact resetEngine_consistent s
  | issue word imm => exact hs.acceptIssue (hb rfl) h
  | csrRead addr => cases h; exact hs.with_host_fields ..
  | csrWrite addr value => cases h; exact hs.acceptCsrWrite addr value
  | regRead r => cases h; exact hs.with_host_fields ..

/-- Settles O42: a step is one engine step or one accepted command, and each keeps the invariant. -/
theorem stepKeepsConsistency : Obligations.StepKeepsConsistency := by
  intro s t hs h
  rcases step_cases h with ⟨-, he⟩ | ⟨c, rest, -, -, -, he⟩ | ⟨c, rest, -, accepted, ha⟩
  · exact hs.engineStep he
  · exact (hs.setPending _).engineStep he
  · refine (hs.setPending rest).acceptCommand (fun held => ?_) ha
    rcases accepted with idle | ⟨-, free⟩
    · exact (busy_eq_false_iff s).mp idle
    · rw [held] at free
      cases free

end Sys2Proof.Machine

namespace Sys2Proof.Machine

/-! ## Fault draws -/

theorem retire_draws {s : State} {nc : Bool} (rd : Reg) (v : Word) (h : nc = true ∨ ¬ FaultDue s) :
    (s.retire nc rd v).draws = s.draws := by
  cases nc with
  | true => rfl
  | false =>
    have notDue : ¬ FaultDue (s.setReg rd v) := h.resolve_left (by simp)
    simp [State.retire, completeCycle_of_not_due rd notDue]

theorem raiseError_draws (s : State) (cause : ErrorCause) (info : BitVec 32) :
    (s.raiseError cause info).draws = s.draws := by
  cases hc : s.errInfo.cause <;> cases cause <;>
    simp [State.raiseError, State.markError, State.recordError, ErrorCause.halts, hc]

theorem modular_draws {s : State} {nc : Bool} (i : Instr) (rd rm : Reg) (result : Nat → Nat)
    (h : nc = true ∨ ¬ FaultDue s) : (s.modular i nc rd rm result).draws = s.draws := by
  unfold State.modular
  split
  · exact raiseError_draws ..
  · exact retire_draws rd _ h

/-- A primitive draws a fault bit only where the fault is due (R137, R139). -/
theorem exec_primitive_draws {i : Instr} {s t : State} (hp : i.isPrimitive = true) (hx : exec i s = .next t)
    (h : i.noCount = true ∨ ¬ FaultDue s) : t.draws = s.draws := by
  cases i with
  | addMod | subMod | mulMod | modCopy | addInverse => cases hx; exact modular_draws _ _ _ _ h
  | copy | loadImmediate | tick => cases hx; exact retire_draws _ _ h
  | modInverse nc rd ra rm =>
    cases hx
    rcases noteInverse_cases s ra rm with ⟨-, e⟩ | ⟨-, -, e⟩ <;> rw [e]
    · exact modular_draws _ _ _ _ h
    · exact modular_draws (s := s.markNonInv) _ _ _ _ h
  | modexp | signNoncrt | signCrtDirect | signCrtShamir => cases hp

/-! ## What a step is made of -/

/-- `t` is `s` with nothing moved but the control position, the host's list and the replies; the signing flags may
have been set. -/
structure ControlMoved (s t : State) : Prop where
  regs : SameRegs s t
  clock : t.clock = s.clock
  nonInv : t.nonInv = s.nonInv
  config : SameConfig s t
  errors : SameErrors s t
  fault : SameFaultRecord s t
  draws : t.draws = s.draws
  signActive : s.signActive = true → t.signActive = true
  faultDetected : s.faultDetected = true → t.faultDetected = true

/-- The step issues a primitive with `NC = 1`. -/
def IssuesUncounted (s : State) : Prop :=
  ∃ wait w imm rest i, s.pending = ⟨wait, .issue w imm⟩ :: rest ∧ decode w imm = .instr i ∧ i.noCount = true

/-- The step accepts a CSR write in INIT or LOAD_OPERANDS, with no macro running (R76). -/
def AcceptsCsrWrite (s : State) : Prop :=
  ∃ wait addr value rest, s.pending = ⟨wait, .csrWrite addr value⟩ :: rest ∧ s.busy = false ∧
    (s.phase = .init ∨ s.phase = .loadOperands)

/-- What a step from `s₀` that is no `RESET` does to the datapath, the records and the configuration, apart from
moves of control: nothing, one primitive, one error, or one configuration write. -/
inductive CoreEffect (s₀ : State) : State → State → Prop where
  | nothing (a : State) : CoreEffect s₀ a a
  | primitive {a b : State} (i : Instr) (prim : i.isPrimitive = true) (run : exec i a = .next b)
      (uncounted : i.noCount = true → IssuesUncounted s₀) : CoreEffect s₀ a b
  | error {a b : State} (cause : ErrorCause) (info : BitVec 32) (taken : ErrorTaken a b cause info)
      (draws : b.draws = a.draws) : CoreEffect s₀ a b
  | configure (a : State) (cycle : CsrWord) (branch : FaultBranch) (bw xbit : Bool) (write : AcceptsCsrWrite s₀) :
      CoreEffect s₀ a { a with faultCycle := cycle, faultBranch := branch, configBw := bw, configXbit := xbit }

/-- Moves of control, one core effect, and moves of control again. -/
def StepEffect (s₀ s t : State) : Prop := ∃ a b, ControlMoved s a ∧ CoreEffect s₀ a b ∧ ControlMoved b t

theorem ControlMoved.refl (s : State) : ControlMoved s s :=
  ⟨fun _ => rfl, rfl, rfl, ⟨rfl, rfl, rfl, rfl⟩, ⟨rfl, rfl, rfl, rfl, rfl⟩, ⟨rfl, rfl⟩, rfl, id, id⟩

/-- Every assignment to the control position, the host's list and the replies is such a move. -/
theorem ControlMoved.assign (s : State) (phase : Phase) (running : Option Running) (pending : List PendingCommand)
    (replies : List Reply) :
    ControlMoved s { s with phase := phase, running := running, pending := pending, replies := replies } :=
  ⟨fun _ => rfl, rfl, rfl, ⟨rfl, rfl, rfl, rfl⟩, ⟨rfl, rfl, rfl, rfl, rfl⟩, ⟨rfl, rfl⟩, rfl, id, id⟩

theorem ControlMoved.trans {s t u : State} (h : ControlMoved s t) (k : ControlMoved t u) : ControlMoved s u := by
  obtain ⟨cycle, branch, bw, xbit⟩ := h.config
  obtain ⟨illegal, modZero, seq, csr, info⟩ := h.errors
  obtain ⟨fired, place⟩ := h.fault
  obtain ⟨cycle', branch', bw', xbit'⟩ := k.config
  obtain ⟨illegal', modZero', seq', csr', info'⟩ := k.errors
  obtain ⟨fired', place'⟩ := k.fault
  exact ⟨fun r => (k.regs r).trans (h.regs r), k.clock.trans h.clock, k.nonInv.trans h.nonInv,
    ⟨cycle'.trans cycle, branch'.trans branch, bw'.trans bw, xbit'.trans xbit⟩,
    ⟨illegal'.trans illegal, modZero'.trans modZero, seq'.trans seq, csr'.trans csr, info'.trans info⟩,
    ⟨fired'.trans fired, place'.trans place⟩, k.draws.trans h.draws, k.signActive ∘ h.signActive,
    k.faultDetected ∘ h.faultDetected⟩

theorem enterStage_controlMoved (s : State) (g : Stage) (off : Nat) : ControlMoved s (s.enterStage g off) := by
  obtain ⟨p, e⟩ := enterStage_eq s g off
  rw [e]
  exact .assign s p _ _ _

theorem beginInstruction_controlMoved (s : State) (i : Instr) : ControlMoved s (s.beginInstruction i) := by
  rcases beginInstruction_cases s i with ⟨e, -⟩ | ⟨e, -, -⟩ <;> rw [e]
  · exact .refl s
  · exact .assign s _ _ _ _

theorem startSign_controlMoved (s : State) (mode : SignMode) : ControlMoved s (s.startSign mode) :=
  ⟨fun _ => rfl, rfl, rfl, ⟨rfl, rfl, rfl, rfl⟩, ⟨rfl, rfl, rfl, rfl, rfl⟩, ⟨rfl, rfl⟩, rfl, fun _ => rfl, id⟩

theorem detectFault_controlMoved (s : State) : ControlMoved s s.detectFault :=
  ⟨fun _ => rfl, rfl, rfl, ⟨rfl, rfl, rfl, rfl⟩, ⟨rfl, rfl, rfl, rfl, rfl⟩, ⟨rfl, rfl⟩, rfl, id, fun _ => rfl⟩

/-- The sequencer's actions at the end of a micro-op's step move control alone. -/
theorem afterMicroOp_controlMoved (u : State) (r : Running) (g : Stage) (off : Nat) :
    ControlMoved u (u.afterMicroOp r g off) := by
  rcases afterMicroOp_cases u r g off with ⟨-, e⟩ | ⟨-, -, -, -, e⟩ | ⟨-, -, e⟩ | ⟨-, -, e⟩ <;> rw [e]
  · exact .refl u
  · exact detectFault_controlMoved u
  · cases r.mctx <;> exact .assign u _ _ _ _
  · exact .assign u _ _ _ _

/-- Moves of control alone. -/
theorem ControlMoved.stepEffect {s t : State} (h : ControlMoved s t) (s₀ : State) : StepEffect s₀ s t :=
  ⟨s, s, .refl s, .nothing s, h⟩

theorem raiseError_stepEffect (s₀ s : State) (cause : ErrorCause) (info : BitVec 32) :
    StepEffect s₀ s (s.raiseError cause info) :=
  ⟨s, _, .refl s, .error cause info (raiseError_errorTaken s cause info) (raiseError_draws s cause info), .refl _⟩

/-- An engine step runs at most one primitive, none of them with `NC = 1` (R114, R130). -/
theorem engineStep_stepEffect (s₀ : State) {s t : State} (h : engineStep s = .next t) : StepEffect s₀ s t := by
  rcases engineStep_cases h with ⟨-, rfl⟩ | ⟨r, g, off, i, u, -, -, -, hi, hu, rfl⟩
  · exact (ControlMoved.refl t).stepEffect s₀
  · obtain ⟨prim, counted⟩ := (isMicroOp_iff i).mp hi
    exact ⟨_, u, enterStage_controlMoved s g off, .primitive i prim hu (by simp [counted]),
      afterMicroOp_controlMoved u r g off⟩

theorem acceptIssue_stepEffect {s₀ s t : State} {w : InstrWord} {imm : Word} (h : acceptIssue w imm s = .next t)
    (hs : ∀ i, decode w imm = .instr i → i.noCount = true → IssuesUncounted s₀) : StepEffect s₀ s t := by
  rcases acceptIssue_cases h with ⟨-, rfl⟩ | ⟨-, -, rfl⟩ | ⟨-, i, hd, hx⟩
  · exact raiseError_stepEffect ..
  · exact raiseError_stepEffect ..
  have begun := beginInstruction_controlMoved s i
  rcases exec_cases hx with hp | ⟨rd, ra, rb, rm, -, rfl⟩ | ⟨mode, -, rfl⟩
  · exact ⟨_, t, begun, .primitive i hp hx (hs i hd), .refl t⟩
  · exact (begun.trans (.assign _ _ _ _ _)).stepEffect s₀
  · exact (begun.trans (startSign_controlMoved _ mode)).stepEffect s₀

theorem acceptCsrWrite_stepEffect {s₀ s : State} (addr : CsrAddr) (value : CsrWord)
    (hs : s.phase = .init ∨ s.phase = .loadOperands → AcceptsCsrWrite s₀) :
    StepEffect s₀ s (s.acceptCsrWrite addr value) := by
  rcases acceptCsrWrite_cases s addr value with
    ⟨-, e⟩ | ⟨hp, -, e⟩ | ⟨hp, -, b, -, e⟩ | ⟨hp, -, -, e⟩ | ⟨-, e⟩ <;> rw [e]
  · exact raiseError_stepEffect ..
  · exact ⟨s, _, .refl s, .configure s _ _ _ _ (hs ((acceptsCsrWrite_iff _).mp hp)), .refl _⟩
  · exact ⟨s, _, .refl s, .configure s _ _ _ _ (hs ((acceptsCsrWrite_iff _).mp hp)), .refl _⟩
  · exact ⟨s, _, .refl s, .configure s _ _ _ _ (hs ((acceptsCsrWrite_iff _).mp hp)), .refl _⟩
  · exact raiseError_stepEffect ..

theorem StepEffect.of_setPending {s₀ s t : State} {l : List PendingCommand}
    (h : StepEffect s₀ (s.setPending l) t) : StepEffect s₀ s t := by
  obtain ⟨a, b, before, core, after⟩ := h
  exact ⟨a, b, .trans (.assign s _ _ _ _) before, core, after⟩

/-- Every step that accepts no `RESET` moves control around at most one core effect. -/
theorem step_stepEffect {s t : State} (h : step s = .next t) (hr : AcceptsNoReset s) : StepEffect s s t := by
  rcases step_cases h with ⟨-, he⟩ | ⟨c, rest, -, -, -, he⟩ | ⟨⟨wait, command⟩, rest, hp, accepted, ha⟩
  · exact engineStep_stepEffect s he
  · exact (engineStep_stepEffect s he).of_setPending
  apply StepEffect.of_setPending (l := rest)
  cases command with
  | reset => exact absurd rfl (command_ne_reset hr hp accepted)
  | issue w imm => exact acceptIssue_stepEffect ha fun i hd hn => ⟨wait, w, imm, rest, i, hp, hd, hn⟩
  | csrRead addr => cases ha; exact (ControlMoved.assign _ _ _ _ _).stepEffect s
  | csrWrite addr value =>
    cases ha
    have idle : s.busy = false := accepted.resolve_right (fun a => by cases a.2)
    exact acceptCsrWrite_stepEffect addr value fun phase => ⟨wait, addr, value, rest, hp, idle, phase⟩
  | regRead r => cases ha; exact (ControlMoved.assign _ _ _ _ _).stepEffect s

/-! ## Sticky flags and the one-shot fault -/

/-- Every sticky flag is still set, and a record that holds an error is the same (R45, R47). -/
structure StickyKept (s t : State) : Prop where
  faultFired : s.faultFired = true → t.faultFired = true
  faultDetected : s.faultDetected = true → t.faultDetected = true
  nonInv : s.nonInv = true → t.nonInv = true
  errIllegal : s.errIllegal = true → t.errIllegal = true
  errModZero : s.errModZero = true → t.errModZero = true
  errSeq : s.errSeq = true → t.errSeq = true
  errCsr : s.errCsr = true → t.errCsr = true
  signActive : s.signActive = true → t.signActive = true
  errInfo : s.errInfo.cause ≠ none → t.errInfo = s.errInfo

theorem StickyKept.trans {s t u : State} (h : StickyKept s t) (k : StickyKept t u) : StickyKept s u :=
  ⟨k.faultFired ∘ h.faultFired, k.faultDetected ∘ h.faultDetected, k.nonInv ∘ h.nonInv,
    k.errIllegal ∘ h.errIllegal, k.errModZero ∘ h.errModZero, k.errSeq ∘ h.errSeq, k.errCsr ∘ h.errCsr,
    k.signActive ∘ h.signActive,
    fun hc => by have e := h.errInfo hc; exact (k.errInfo (e ▸ hc)).trans e⟩

theorem ControlMoved.stickyKept {s t : State} (h : ControlMoved s t) : StickyKept s t := by
  obtain ⟨illegal, modZero, seq, csr, info⟩ := h.errors
  obtain ⟨fired, -⟩ := h.fault
  exact ⟨fired.trans, h.faultDetected, h.nonInv.trans, illegal.trans, modZero.trans, seq.trans, csr.trans,
    h.signActive, fun _ => info⟩

theorem Retired.stickyKept {s t : State} {nc : Bool} {rd : Reg} {v : Nat} (h : Retired s t nc rd v)
    (hn : s.nonInv = true → t.nonInv = true) : StickyKept s t := by
  obtain ⟨illegal, modZero, seq, csr, info⟩ := h.errors
  obtain ⟨active, -, detected⟩ := h.signing
  exact ⟨fun hf => (h.faultFired hf).1.trans hf, detected.trans, hn, illegal.trans, modZero.trans, seq.trans,
    csr.trans, active.trans, fun _ => info⟩

theorem ErrorTaken.stickyKept {s t : State} {cause : ErrorCause} {info : BitVec 32}
    (h : ErrorTaken s t cause info) : StickyKept s t := by
  obtain ⟨active, -, detected⟩ := h.signing
  obtain ⟨fired, -⟩ := h.fault
  refine ⟨fired.trans, detected.trans, h.nonInv.trans, ?_, ?_, ?_, ?_, active.trans, h.later⟩
  · simp +contextual [h.illegalBit]
  · simp +contextual [h.modZeroBit]
  · simp +contextual [h.seqBit]
  · simp +contextual [h.csrBit]

theorem CoreEffect.stickyKept {s₀ a b : State} (h : CoreEffect s₀ a b) : StickyKept a b := by
  cases h with
  | nothing => exact (ControlMoved.refl a).stickyKept
  | primitive i prim run uncounted =>
    rcases exec_primitive_cases prim run with ⟨rd, v, retired, nonInv⟩ | error
    · exact retired.stickyKept nonInv
    · exact error.stickyKept
  | error cause info taken draws => exact taken.stickyKept
  | configure => exact ⟨id, id, id, id, id, id, id, id, fun _ => rfl⟩

theorem StepEffect.stickyKept {s₀ s t : State} (h : StepEffect s₀ s t) : StickyKept s t := by
  obtain ⟨a, b, before, core, after⟩ := h
  exact (before.stickyKept.trans core.stickyKept).trans after.stickyKept

/-- Once the fault has fired no core effect rewrites its record or draws again (R51, R138). -/
theorem CoreEffect.fault_kept {s₀ a b : State} (h : CoreEffect s₀ a b) (hf : a.faultFired = true) :
    b.faultInfo = a.faultInfo ∧ b.draws = a.draws := by
  cases h with
  | nothing => exact ⟨rfl, rfl⟩
  | primitive i prim run uncounted =>
    have notDue : ¬ FaultDue a := fun ⟨_, _, fresh, _⟩ => by simp [hf] at fresh
    refine ⟨?_, exec_primitive_draws prim run (.inr notDue)⟩
    rcases exec_primitive_cases prim run with ⟨rd, v, retired, -⟩ | error
    · exact (retired.faultFired hf).2
    · exact error.fault.2
  | error cause info taken draws => exact ⟨taken.fault.2, draws⟩
  | configure => exact ⟨rfl, rfl⟩

/-- Settles O15: no part of a step fires a second fault. -/
theorem faultFiresAtMostOnce : Obligations.FaultFiresAtMostOnce := by
  intro s t h hr hf
  have effect := step_stepEffect h hr
  refine ⟨effect.stickyKept.faultFired hf, ?_⟩
  obtain ⟨a, b, before, core, after⟩ := effect
  obtain ⟨place, draws⟩ := core.fault_kept (before.fault.1.trans hf)
  exact ⟨after.fault.2.trans (place.trans before.fault.2), after.draws.trans (draws.trans before.draws)⟩

/-- Settles O38: control moves set flags and clear none, and so does each core effect. -/
theorem stickyFlagsAreClearedOnlyByReset : Obligations.StickyFlagsAreClearedOnlyByReset := by
  intro s t h hr
  have kept := (step_stepEffect h hr).stickyKept
  exact ⟨kept.faultFired, kept.faultDetected, kept.nonInv, kept.errIllegal, kept.errModZero, kept.errSeq,
    kept.errCsr, kept.signActive, kept.errInfo⟩

/-! ## Cycles, registers and the configuration -/

/-- A completed primitive counts one cycle and changes one register, or has `NC = 1`. -/
theorem Retired.clock_cases {s t : State} {nc : Bool} {rd : Reg} {v : Nat} (h : Retired s t nc rd v) :
    (nc = true ∧ t.clock = s.clock) ∨ t.clock = s.clock + 1#64 := by
  cases nc with
  | true => exact .inl ⟨rfl, (h.uncounted rfl).2.1⟩
  | false => exact .inr (h.counted rfl)

/-- `CLOCK` advanced is not `CLOCK` kept, at the wrap-around too. -/
theorem clock_add_one_ne (c : CsrWord) : c + 1#64 ≠ c := by simp

/-- A core effect stands still, changing no register unless it is an uncounted primitive, or counts one cycle. -/
theorem CoreEffect.clock_cases {s₀ a b : State} (h : CoreEffect s₀ a b) :
    (b.clock = a.clock ∧ (SameRegs a b ∨ IssuesUncounted s₀)) ∨ b.clock = a.clock + 1#64 := by
  cases h with
  | nothing => exact .inl ⟨rfl, .inl fun _ => rfl⟩
  | primitive i prim run uncounted =>
    rcases exec_primitive_cases prim run with ⟨rd, v, retired, -⟩ | error
    · exact retired.clock_cases.imp (fun ⟨nc, clock⟩ => ⟨clock, .inr (uncounted nc)⟩) id
    · exact .inl ⟨error.clock, .inl error.regs⟩
  | error cause info taken draws => exact .inl ⟨taken.clock, .inl taken.regs⟩
  | configure => exact .inl ⟨rfl, .inl fun _ => rfl⟩

/-- A core effect changes at most one register. -/
theorem CoreEffect.one_register {s₀ a b : State} (h : CoreEffect s₀ a b) :
    ∃ rd : Reg, ∀ x : Reg, x ≠ rd → b.reg x = a.reg x := by
  cases h with
  | nothing => exact ⟨0, fun _ _ => rfl⟩
  | primitive i prim run uncounted =>
    rcases exec_primitive_cases prim run with ⟨rd, v, retired, -⟩ | error
    · exact ⟨rd, retired.others⟩
    · exact ⟨0, fun x _ => error.regs x⟩
  | error cause info taken draws => exact ⟨0, fun x _ => taken.regs x⟩
  | configure => exact ⟨0, fun _ _ => rfl⟩

/-- A core effect keeps the configuration, unless it is a CSR write. -/
theorem CoreEffect.config_cases {s₀ a b : State} (h : CoreEffect s₀ a b) : SameConfig a b ∨ AcceptsCsrWrite s₀ := by
  cases h with
  | nothing => exact .inl ⟨rfl, rfl, rfl, rfl⟩
  | primitive i prim run uncounted =>
    rcases exec_primitive_cases prim run with ⟨rd, v, retired, -⟩ | error
    · exact .inl retired.config
    · exact .inl error.config
  | error cause info taken draws => exact .inl taken.config
  | configure cycle branch bw xbit write => exact .inr write

theorem SameConfig.trans {s t u : State} (h : SameConfig s t) (k : SameConfig t u) : SameConfig s u := by
  obtain ⟨cycle, branch, bw, xbit⟩ := h
  obtain ⟨cycle', branch', bw', xbit'⟩ := k
  exact ⟨cycle'.trans cycle, branch'.trans branch, bw'.trans bw, xbit'.trans xbit⟩

/-- Settles O39: only the one core effect of a step counts or writes. -/
theorem stepCountsAtMostOneCycle : Obligations.StepCountsAtMostOneCycle := by
  intro s t h hr
  obtain ⟨a, b, before, core, after⟩ := step_stepEffect h hr
  obtain ⟨rd, others⟩ := core.one_register
  refine ⟨?_, ⟨rd, fun x hx => (after.regs x).trans ((others x hx).trans (before.regs x))⟩, fun still => ?_⟩
  · rw [after.clock, ← before.clock]
    exact core.clock_cases.imp And.left id
  · rw [after.clock, ← before.clock] at still
    rcases core.clock_cases with ⟨-, same | uncounted⟩ | counted
    · exact .inl fun x => (after.regs x).trans ((same x).trans (before.regs x))
    · exact .inr uncounted
    · exact absurd (counted.symm.trans still) (clock_add_one_ne _)

/-- Settles O40: of a step's parts only a CSR write reaches the configuration. -/
theorem onlyTheHostWritesTheConfiguration : Obligations.OnlyTheHostWritesTheConfiguration := by
  intro s t h hr
  obtain ⟨a, b, before, core, after⟩ := step_stepEffect h hr
  exact core.config_cases.imp (fun same => (before.config.trans same).trans after.config) id

/-! ## Terminal states -/

/-- In a terminal state a step rests, refuses the command with `SEQ`, or answers a read (R73, R76, R255). -/
theorem terminal_step_cases {s t : State} (ht : s.phase.terminal = true) (hn : s.running = none)
    (hr : AcceptsNoReset s) (h : step s = .next t) :
    t = s ∨ (∃ rest info, ErrorTaken (s.setPending rest) t .seq info) ∨
      ∃ rest reply, t = (s.setPending rest).pushReply reply := by
  have idle : s.busy = false := (busy_eq_false_iff s).mpr hn
  rcases step_cases h with ⟨-, he⟩ | ⟨c, rest, -, busy, -, -⟩ | ⟨⟨wait, command⟩, rest, hp, accepted, ha⟩
  · rcases engineStep_cases he with ⟨-, rfl⟩ | ⟨r, _, _, _, _, hrun, -⟩
    · exact .inl rfl
    · rw [hn] at hrun
      cases hrun
  · rw [idle] at busy
    cases busy
  cases command with
  | reset => exact absurd rfl (command_ne_reset hr hp accepted)
  | issue w imm =>
    have refused : acceptIssue w imm (s.setPending rest) = .next ((s.setPending rest).raiseError .seq w) := if_pos ht
    cases refused.symm.trans ha
    exact .inr (.inl ⟨rest, w, raiseError_errorTaken ..⟩)
  | csrRead addr => cases ha; exact .inr (.inr ⟨rest, _, rfl⟩)
  | csrWrite addr value =>
    have closed : ¬ (s.setPending rest).phase.acceptsCsrWrite = true := by
      rw [setPending_phase, acceptsCsrWrite_iff]
      rintro (hp | hp) <;> rw [hp] at ht <;> cases ht
    have refused : (s.setPending rest).acceptCsrWrite addr value =
        (s.setPending rest).raiseError .seq (addr.setWidth 32) := if_neg closed
    cases ha
    exact .inr (.inl ⟨rest, _, refused ▸ raiseError_errorTaken ..⟩)
  | regRead r => cases ha; exact .inr (.inr ⟨rest, _, rfl⟩)

/-- Settles O32: neither the engine at rest, nor a refusal, nor a read moves anything that the statement names. -/
theorem terminalStateIsFrozen : Obligations.TerminalStateIsFrozen := by
  intro s t ht hn hr h
  rcases terminal_step_cases ht hn hr h with rfl | ⟨rest, info, error⟩ | ⟨rest, reply, rfl⟩
  · exact ⟨fun _ => rfl, rfl, rfl, hn, ⟨rfl, rfl, rfl, rfl⟩, ⟨rfl, rfl⟩, ⟨rfl, rfl, rfl⟩, rfl⟩
  · obtain ⟨phase, running⟩ := error.refusal (.inl rfl)
    exact ⟨error.regs, error.clock, phase, running.trans hn, error.config, error.fault, error.signing, error.nonInv⟩
  · exact ⟨fun _ => rfl, rfl, rfl, hn, ⟨rfl, rfl, rfl, rfl⟩, ⟨rfl, rfl⟩, ⟨rfl, rfl, rfl⟩, rfl⟩

/-! ## CSR writes -/

/-- Bits 63:2 of a CSR value are 0 exactly below 4. -/
theorem high_bits_eq_zero_iff (v : CsrWord) : v.extractLsb' 2 62 = 0#62 ↔ v.toNat < 4 := by
  have bound := v.isLt
  rw [← BitVec.toNat_inj, BitVec.extractLsb'_toNat, Nat.shiftRight_eq_div_pow]
  simp only [BitVec.toNat_ofNat]
  omega

/-- A value names a selector exactly where it is the selector's code (R43). -/
theorem faultBranchOf_eq_some_iff (v : CsrWord) (b : FaultBranch) :
    faultBranchOf v = some b ↔ v.toNat = b.code.toNat := by
  unfold faultBranchOf
  split <;> cases b <;> simp_all [FaultBranch.code]

/-- The values that name a selector have bits 63:2 zero and bits 1:0 not 3. -/
theorem exists_faultBranchOf_iff (v : CsrWord) :
    (∃ b, faultBranchOf v = some b) ↔ v.extractLsb' 2 62 = 0#62 ∧ v.extractLsb' 0 2 ≠ 3#2 := by
  have low : v.extractLsb' 0 2 = 3#2 ↔ v.toNat % 4 = 3 := by simp [← BitVec.toNat_inj]
  simp only [faultBranchOf_eq_some_iff, high_bits_eq_zero_iff, ne_eq, low]
  constructor
  · rintro ⟨b, code⟩
    cases b <;> rw [code] <;> decide
  · rintro ⟨small, notReserved⟩
    have : v.toNat = 0 ∨ v.toNat = 1 ∨ v.toNat = 2 := by omega
    rcases this with e | e | e <;> rw [e]
    · exact ⟨.none, rfl⟩
    · exact ⟨.branchP, rfl⟩
    · exact ⟨.branchQ, rfl⟩

/-- The selector's code stands in bits 1:0 of the value that names it. -/
theorem code_of_faultBranchOf {v : CsrWord} {b : FaultBranch} (h : faultBranchOf v = some b) :
    b.code = v.extractLsb' 0 2 := by
  have named := (faultBranchOf_eq_some_iff v b).mp h
  apply BitVec.eq_of_toNat_eq
  rw [BitVec.extractLsb'_toNat, Nat.shiftRight_zero, named, Nat.mod_eq_of_lt b.code.isLt]

/-- With `BUSY = 0` a CSR write is accepted at once (R74). -/
theorem step_csrWrite {s : State} {wait : Nat} {addr : CsrAddr} {value : CsrWord} {rest : List PendingCommand}
    (hp : s.pending = ⟨wait, .csrWrite addr value⟩ :: rest) (hb : s.busy = false) :
    step s = .next ((s.setPending rest).acceptCsrWrite addr value) := by
  simp [step, nextMove, hp, hb, acceptCommand]

/-- Settles O33: each writable CSR takes its legal values, and what is left is refused. -/
theorem csrWriteFollowsItsProcedure : Obligations.CsrWriteFollowsItsProcedure := by
  intro s wait addr value rest hp hb phase high low base
  have accepts : base.phase.acceptsCsrWrite = true := (acceptsCsrWrite_iff s.phase).mpr phase
  rw [show step s = .next (base.acceptCsrWrite addr value) from step_csrWrite hp hb]
  split
  · next cycle =>
    subst cycle
    simp [State.acceptCsrWrite, accepts, State.setFaultCycle]
  split
  · next notCycle ctrl =>
    obtain ⟨rfl, legal⟩ := ctrl
    obtain ⟨b, named⟩ := (exists_faultBranchOf_iff value).mpr legal
    exact ⟨b, code_of_faultBranchOf named, by simp [State.acceptCsrWrite, accepts, named, State.setFaultBranch]⟩
  split
  · next notCycle notCtrl config =>
    obtain ⟨rfl, legal⟩ := config
    have small : value.toNat < 4 := (high_bits_eq_zero_iff value).mp legal
    simp [State.acceptCsrWrite, accepts, small, State.setConfig, low]
  · next notCycle notCtrl notConfig =>
    refine ⟨_, rfl, ?_⟩
    rcases acceptCsrWrite_cases base addr value with
      ⟨refused, -⟩ | ⟨-, ha, -⟩ | ⟨-, ha, b, named, -⟩ | ⟨-, ha, small, -⟩ | ⟨-, e⟩
    · rw [accepts] at refused
      cases refused
    · exact absurd (BitVec.eq_of_toNat_eq ha) notCycle
    · exact absurd ⟨BitVec.eq_of_toNat_eq ha, (exists_faultBranchOf_iff value).mp ⟨b, named⟩⟩ notCtrl
    · exact absurd ⟨BitVec.eq_of_toNat_eq ha, (high_bits_eq_zero_iff value).mpr small⟩ notConfig
    · rw [e]
      exact raiseError_errorTaken ..

/-! ## The issue of a macro -/

/-- Settles O17: the issue of a macro assigns `BUSY` with the context, and that of a `sign` its two flags. -/
theorem macroIssueTakesItsContext : Obligations.MacroIssueTakesItsContext := by
  intro s k kept
  have issued (ctx : MacroContext) (active : Bool) (mode : SignMode) :
      kept { s with running := some ⟨ctx, 0⟩, signActive := active, signMode := mode } :=
    ⟨rfl, fun _ => rfl, rfl, rfl, ⟨rfl, rfl, rfl, rfl⟩, ⟨rfl, rfl, rfl, rfl, rfl⟩, ⟨rfl, rfl⟩, rfl, rfl, rfl, rfl⟩
  exact ⟨fun rd ra rb rm => ⟨_, rfl, rfl, issued .., rfl, rfl⟩, ⟨_, rfl, rfl, issued .., rfl, rfl⟩,
    ⟨_, rfl, rfl, issued .., rfl, rfl⟩, ⟨_, rfl, rfl, issued .., rfl, rfl⟩⟩

/-! ## The fields of the CSRs -/

theorem csrValue_clock (s : State) : s.csrValue 0x00#8 = s.clock := rfl
theorem csrValue_faultCycle (s : State) : s.csrValue 0x01#8 = s.faultCycle := rfl
theorem csrValue_faultCtrl (s : State) : s.csrValue 0x02#8 = s.faultCtrlWord := rfl
theorem csrValue_status (s : State) : s.csrValue 0x04#8 = s.statusWord := rfl
theorem csrValue_faultInfo (s : State) : s.csrValue 0x05#8 = s.faultInfoWord := rfl
theorem csrValue_errInfo (s : State) : s.csrValue 0x06#8 = s.errInfoWord := rfl

/-- The addresses 7 to 255 are not implemented (R48). -/
theorem csrValue_unimplemented (s : State) {addr : CsrAddr} (h : 7 ≤ addr.toNat) : s.csrValue addr = 0#64 := by
  unfold State.csrValue
  split
  case h_8 => rfl
  all_goals omega

/-- `FAULT_CTRL` is the selector's code (R43). -/
theorem faultCtrlWord_toNat (s : State) : s.faultCtrlWord.toNat = s.faultBranch.code.toNat := by
  simp only [State.faultCtrlWord, BitVec.toNat_append]
  simp

/-- The bits of `CONFIG` (R44). -/
theorem configWord_bits (s : State) :
    s.configWord.getLsbD 0 = s.configBw ∧ s.configWord.getLsbD 1 = s.configXbit := by
  simp only [State.configWord, BitVec.getLsbD_append]
  simp

theorem configWord_reserved (s : State) : s.configWord.extractLsb' 2 62 = 0#62 := by
  simp (disch := decide) only [State.configWord, BitVec.extractLsb'_append_eq_of_le]
  simp

/-- The one-bit flags of `STATUS` (R45). -/
theorem statusWord_flags (s : State) :
    s.statusWord.getLsbD 4 = s.busy ∧ s.statusWord.getLsbD 5 = s.faultFired ∧
    s.statusWord.getLsbD 6 = s.faultDetected ∧ s.statusWord.getLsbD 7 = s.nonInv ∧
    s.statusWord.getLsbD 8 = s.errIllegal ∧ s.statusWord.getLsbD 9 = s.errModZero ∧
    s.statusWord.getLsbD 10 = s.errSeq ∧ s.statusWord.getLsbD 11 = s.errCsr ∧
    s.statusWord.getLsbD 12 = s.signActive := by
  simp only [State.statusWord, BitVec.getLsbD_append]
  simp

/-- `STATE`, `SIGN_MODE` and the reserved bits of `STATUS` (R45, R49). -/
theorem statusWord_fields (s : State) :
    s.statusWord.extractLsb' 0 4 = s.phase.code ∧ s.statusWord.extractLsb' 13 2 = s.signMode.code ∧
      s.statusWord.extractLsb' 15 49 = 0#49 := by
  simp (disch := decide) only [State.statusWord, BitVec.extractLsb'_append_eq_of_le,
    BitVec.extractLsb'_append_eq_of_add_le]
  simp

/-- The fields of `FAULT_INFO` (R46). -/
theorem faultInfoWord_fields (s : State) :
    s.faultInfoWord.extractLsb' 0 10 = s.faultInfo.bit ∧
    s.faultInfoWord.extractLsb' 16 4 = BitVec.ofFin (w := 4) s.faultInfo.reg ∧
    s.faultInfoWord.extractLsb' 10 6 = 0#6 ∧ s.faultInfoWord.extractLsb' 20 44 = 0#44 := by
  simp (disch := decide) only [State.faultInfoWord, BitVec.extractLsb'_append_eq_of_le,
    BitVec.extractLsb'_append_eq_of_add_le]
  simp

/-- `ERR_INFO.CAUSE`, 0 while it holds none (R47). -/
def causeCode (cause : Option ErrorCause) : BitVec 3 := cause.elim 0#3 ErrorCause.code

theorem errInfoWord_eq (s : State) : s.errInfoWord = s.errInfo.info ++ 0#29 ++ causeCode s.errInfo.cause := by
  unfold State.errInfoWord
  cases s.errInfo.cause <;> rfl

/-- The fields of `ERR_INFO` (R47). -/
theorem errInfoWord_fields (s : State) :
    s.errInfoWord.extractLsb' 0 3 = causeCode s.errInfo.cause ∧ s.errInfoWord.extractLsb' 3 29 = 0#29 ∧
      s.errInfoWord.extractLsb' 32 32 = s.errInfo.info := by
  simp (disch := decide) only [errInfoWord_eq, BitVec.extractLsb'_append_eq_of_le,
    BitVec.extractLsb'_append_eq_of_add_le]
  simp

/-- Settles O35: each CSR word field by field, the codes by the cases of R43, R45, R47 and R49. -/
theorem csrFieldsStandAtTheirBits : Obligations.CsrFieldsStandAtTheirBits := by
  intro s ctrl config status place err
  obtain ⟨bw, xbit⟩ := configWord_bits s
  obtain ⟨busy, fired, detected, nonInv, illegal, modZero, seq, csr, active⟩ := statusWord_flags s
  obtain ⟨state, mode, statusReserved⟩ := statusWord_fields s
  obtain ⟨bit, reg, placeReserved, placeHigh⟩ := faultInfoWord_fields s
  obtain ⟨cause, errReserved, info⟩ := errInfoWord_fields s
  refine ⟨⟨csrValue_clock s, csrValue_faultCycle s⟩, ?_, ⟨bw, xbit, configWord_reserved s⟩,
    ⟨?_, busy, fired, detected, nonInv, illegal, modZero, seq, csr, active, ?_, statusReserved⟩,
    ⟨bit, ?_, placeReserved, placeHigh⟩, ⟨?_, errReserved, info⟩, fun addr => csrValue_unimplemented s⟩
  · rw [show ctrl = s.faultCtrlWord from csrValue_faultCtrl s, faultCtrlWord_toNat]
    cases s.faultBranch <;> rfl
  · rw [show status = s.statusWord from csrValue_status s, state]
    cases s.phase <;> rfl
  · rw [show status = s.statusWord from csrValue_status s, mode]
    cases s.signMode <;> rfl
  · rw [show place = s.faultInfoWord from csrValue_faultInfo s, reg]
    rfl
  · rw [show err = s.errInfoWord from csrValue_errInfo s, cause]
    rcases s.errInfo.cause with - | c
    · rfl
    · cases c <;> rfl

end Sys2Proof.Machine

/-! PROOFS of the family 20_memory.md. The port: which command a step accepts, refuses or holds. The engine step that
a held command waits for, and the run of engine steps to the end of a macro. -/

namespace Sys2Proof.Machine

/-! ## The command at the port -/

/-- A command is accepted where no macro runs, and inside one where it has arrived and is never held (R74, R86). -/
theorem step_accepts {s : State} {c : PendingCommand} {rest : List PendingCommand} (hp : s.pending = c :: rest)
    (ha : s.busy = false ∨ (c.wait = 0 ∧ c.command.held = false)) :
    step s = acceptCommand c.command (s.setPending rest) := by
  unfold step nextMove
  rw [hp]
  refine if_neg ?_
  rcases ha with idle | ⟨arrived, free⟩
  · simp [idle]
  · simp [arrived, free]

/-- Inside a macro the engine steps under a command that is held or has not arrived (R74, R86). -/
theorem step_holds {s : State} {c : PendingCommand} {rest : List PendingCommand} (hp : s.pending = c :: rest)
    (hb : s.busy = true) (hc : c.wait ≠ 0 ∨ c.command.held = true) :
    step s = engineStep (s.setPending (⟨c.wait - 1, c.command⟩ :: rest)) := by
  unfold step nextMove
  rw [hp]
  refine if_pos ?_
  rcases hc with early | held
  · simp [hb, early]
  · simp [hb, held]

/-- With the host idle the step is the engine's. -/
theorem step_of_idle {s : State} (h : HostIdle s) : step s = engineStep s := by
  unfold step nextMove
  rw [h]

/-- Exactly `ISSUE` and `CSR_WRITE` are held while `BUSY = 1` (R74). -/
theorem held_iff (c : HostCommand) :
    c.held = true ↔ (∃ w imm, c = .issue w imm) ∨ (∃ addr value, c = .csrWrite addr value) := by
  cases c <;> simp [HostCommand.held]

/-- The beginning of an instruction in the words of R73. -/
theorem beginInstruction_eq (s : State) (i : Instr) :
    s.beginInstruction i =
      { s with phase := if i.isSign = false ∧ s.phase = .init then .loadOperands else s.phase } := by
  rcases beginInstruction_cases s i with ⟨e, stays⟩ | ⟨e, leaves⟩
  · have : ¬ (i.isSign = false ∧ s.phase = .init) := by
      rintro ⟨noSign, init⟩
      rcases stays with sign | other
      · simp [noSign] at sign
      · exact other init
    rw [e, if_neg this]
  · rw [e, if_pos leaves]
    rfl

theorem acceptIssue_of_instr {s : State} {w : InstrWord} {imm : Word} {i : Instr} (ht : s.phase.terminal = false)
    (hd : decode w imm = .instr i) : acceptIssue w imm s = exec i (s.beginInstruction i) := by
  simp [acceptIssue, ht, hd]

theorem acceptIssue_of_terminal {s : State} (w : InstrWord) (imm : Word) (ht : s.phase.terminal = true) :
    acceptIssue w imm s = .next (s.raiseError .seq w) := if_pos ht

/-- Outside INIT and LOAD_OPERANDS a CSR write is refused before its address is looked at (R76, R259). -/
theorem acceptCsrWrite_of_closed {s : State} (addr : CsrAddr) (value : CsrWord) (hi : s.phase ≠ .init)
    (hl : s.phase ≠ .loadOperands) : s.acceptCsrWrite addr value = s.raiseError .seq (addr.setWidth 32) :=
  if_neg fun accepts => ((acceptsCsrWrite_iff s.phase).mp accepts).elim hi hl

/-- A reply on the host's side, and the command gone from its list, leave the engine as it is (R75, R77). -/
theorem sameEngine_reply (s : State) (rest : List PendingCommand) (reply : Reply) :
    SameEngine s ((s.setPending rest).pushReply reply) :=
  ⟨fun _ => rfl, rfl, rfl, ⟨rfl, rfl, rfl, rfl⟩, ⟨rfl, rfl, rfl, rfl, rfl⟩, ⟨rfl, rfl⟩, ⟨rfl, rfl, rfl⟩, rfl, rfl⟩

/-- Settles O29: the port accepts the word, and `exec` runs on what `beginInstruction` leaves. -/
theorem stepRunsTheDecodedInstruction : Obligations.StepRunsTheDecodedInstruction := by
  intro s wait w imm rest i hp hb ht hd
  calc step s
      = acceptIssue w imm (s.setPending rest) := step_accepts hp (.inl hb)
    _ = exec i ((s.setPending rest).beginInstruction i) := acceptIssue_of_instr ht hd
    _ = _ := by rw [beginInstruction_eq]; rfl

/-- Settles O31: both refusals raise `SEQ` on the state without the command. -/
theorem wrongStateIsRefusedWithSeq : Obligations.WrongStateIsRefusedWithSeq := by
  constructor
  · intro s wait w imm rest hp hb ht
    have refused : step s = .next ((s.setPending rest).raiseError .seq w) :=
      (step_accepts hp (.inl hb)).trans (acceptIssue_of_terminal w imm ht)
    exact ⟨_, refused, raiseError_errorTaken (s.setPending rest) .seq w⟩
  · intro s wait addr value rest hp hb hi hl
    have refused : step s = .next ((s.setPending rest).raiseError .seq (addr.setWidth 32)) :=
      (step_accepts hp (.inl hb)).trans
        (congrArg Host.Outcome.next (acceptCsrWrite_of_closed (s := s.setPending rest) addr value hi hl))
    exact ⟨_, refused, raiseError_errorTaken (s.setPending rest) .seq _⟩

/-- Settles O34: a read is never held, and its acceptance touches the host's side alone. -/
theorem hostReadsDisturbNothing : Obligations.HostReadsDisturbNothing := by
  intro s wait rest ha
  constructor
  · intro addr hp
    exact ⟨_, step_accepts hp (ha.imp_right fun arrived => ⟨arrived, rfl⟩), rfl, rfl, sameEngine_reply ..⟩
  · intro r hp
    exact ⟨_, step_accepts hp (ha.imp_right fun arrived => ⟨arrived, rfl⟩), rfl, rfl, sameEngine_reply ..⟩

/-! ## One micro-op -/

/-- With no macro the engine rests (R273). -/
theorem engineStep_of_none {s : State} (h : s.running = none) : engineStep s = .next s := by
  simp [engineStep, h]

/-- The micro-op of an engine step takes `MODZERO`, which ends the step, or completes one cycle on its destination,
after which the sequencer acts (R130, R197, R228). -/
theorem engineStep_running_cases {s t : State} {r : Running} (hr : s.running = some r)
    (h : engineStep s = .next t) :
    ∃ g off, locate r.mctx.width (stages r.mctx) r.seq = some (g, off) ∧
      ((∃ word, ErrorTaken (s.enterStage g off) t .modZero word) ∨
        ∃ u rd v, Retired (s.enterStage g off) u false rd v ∧ t = u.afterMicroOp r g off) := by
  rcases engineStep_cases h with ⟨stopped, -⟩ | ⟨r', g, off, i, u, hr', hl, -, hi, hu, rfl⟩
  · rw [hr] at stopped
    cases stopped
  cases hr.symm.trans hr'
  obtain ⟨prim, counted⟩ := (isMicroOp_iff i).mp hi
  refine ⟨g, off, hl, ?_⟩
  rcases exec_primitive_cases prim hu with ⟨rd, v, retired, -⟩ | error
  · exact .inr ⟨u, rd, v, counted ▸ retired, rfl⟩
  · have stopped : u.running = none := (error.halt (.inr rfl)).2
    exact .inl ⟨_, by rwa [State.afterMicroOp, if_pos stopped]⟩

/-- The sequencer leaves the host's side alone. -/
theorem afterMicroOp_host (u : State) (r : Running) (g : Stage) (off : Nat) :
    (u.afterMicroOp r g off).pending = u.pending ∧ (u.afterMicroOp r g off).replies = u.replies := by
  rcases afterMicroOp_cases u r g off with ⟨-, e⟩ | ⟨-, -, -, -, e⟩ | ⟨-, -, e⟩ | ⟨-, -, e⟩ <;> rw [e]
  · exact ⟨rfl, rfl⟩
  · exact ⟨rfl, rfl⟩
  · cases r.mctx <;> exact ⟨rfl, rfl⟩
  · exact ⟨rfl, rfl⟩

/-- The beginning of a stage leaves the host's side alone. -/
theorem enterStage_host (s : State) (g : Stage) (off : Nat) :
    (s.enterStage g off).pending = s.pending ∧ (s.enterStage g off).replies = s.replies := by
  obtain ⟨p, e⟩ := enterStage_eq s g off
  rw [e]
  exact ⟨rfl, rfl⟩

/-- No engine step writes the configuration, or touches the host's side (R42 to R44, R74). -/
theorem engineStep_host {s t : State} (h : engineStep s = .next t) :
    t.pending = s.pending ∧ t.replies = s.replies ∧ SameConfig s t := by
  cases hr : s.running with
  | none =>
    cases (engineStep_of_none hr).symm.trans h
    exact ⟨rfl, rfl, rfl, rfl, rfl, rfl⟩
  | some r =>
    obtain ⟨g, off, -, ran⟩ := engineStep_running_cases hr h
    obtain ⟨pending, replies⟩ := enterStage_host s g off
    have entered := (enterStage_controlMoved s g off).config
    rcases ran with ⟨word, error⟩ | ⟨u, rd, v, retired, rfl⟩
    · obtain ⟨pending', replies'⟩ := error.host
      exact ⟨pending'.trans pending, replies'.trans replies, entered.trans error.config⟩
    · obtain ⟨-, -, pending', replies'⟩ := retired.control
      obtain ⟨pending'', replies''⟩ := afterMicroOp_host u r g off
      exact ⟨pending''.trans (pending'.trans pending), replies''.trans (replies'.trans replies),
        (entered.trans retired.config).trans (afterMicroOp_controlMoved u r g off).config⟩

/-- Settles O36: the step is the engine's under the held command, and no engine step touches the host's list. -/
theorem heldCommandStaysPending : Obligations.HeldCommandStaysPending := by
  intro s t c rest hb hp hc h
  rw [step_holds hp hb (.inr ((held_iff c.command).mpr hc))] at h
  obtain ⟨pending, replies, config⟩ := engineStep_host h
  exact ⟨h, pending, config, replies⟩

/-! ## The run of a macro -/

/-- A run goes on from the state its first step answers. -/
theorem run_succ {M : Host.Core} {s t : M.State} (h : M.step s = .next t) (n : Nat) :
    M.run (n + 1) s = M.run n t := by
  rw [Host.Core.run, h]

/-- With no macro and no command the machine rests (R273). -/
theorem run_of_rest {s : State} (hr : s.running = none) (hi : HostIdle s) (n : Nat) :
    Host.Core.run Sys2Proof.core n s = .next s := by
  have rests : Sys2Proof.core.step s = .next s := (step_of_idle hi).trans (engineStep_of_none hr)
  induction n with
  | zero => rfl
  | succ n ih => rw [run_succ rests, ih]

/-- `STATE` after a macro's last micro-op, from `STATE` before it (R191, R213, R214, R218). -/
def MacroContext.endPhase : MacroContext → Phase → Phase
  | .modexp _ _ _ _ _, p => p
  | .sign _ _, _ => .done

theorem finish_phase (u : State) (ctx : MacroContext) : (u.finish ctx).phase = ctx.endPhase u.phase := by
  cases ctx <;> rfl

theorem finish_running (u : State) (ctx : MacroContext) : (u.finish ctx).running = none := by
  cases ctx <;> rfl

/-- The `STATE` that a stage shows meanwhile does not reach the end of the macro. -/
theorem endPhase_enterStage (s : State) {ctx : MacroContext} {g : Stage} (off : Nat) (hg : g ∈ stages ctx) :
    ctx.endPhase (s.enterStage g off).phase = ctx.endPhase s.phase := by
  cases ctx with
  | modexp rd ra rb rm k => rw [enterStage_of_none s off (modexp_stage_enters hg)]
  | sign mode k => rfl

/-- A found position lies in the first stage, or as far behind it as it lies in the others. -/
theorem locate_cons_cases {k : Nat} {a : Stage} {rest : List Stage} {n : Nat} {g : Stage} {off : Nat}
    (h : locate k (a :: rest) n = some (g, off)) :
    (g = a ∧ n = off) ∨ ∃ m, n = a.body.length k + m ∧ locate k rest m = some (g, off) := by
  unfold locate at h
  split at h
  · cases h
    exact .inl ⟨rfl, rfl⟩
  · exact .inr ⟨_, by omega, h⟩

/-- The compare of R220 stands at the end of micro-op `12 + 4K` of `crt_shamir`, and nowhere else (R225). -/
theorem compare_position {ctx : MacroContext} {n : Nat} {g : Stage} {off : Nat}
    (hl : locate ctx.width (stages ctx) n = some (g, off)) (hc : g.compares = true)
    (last : off + 1 = g.body.length ctx.width) : ∃ k, ctx = .sign .crtShamir k ∧ n = 12 + 4 * k := by
  have elsewhere (quiet : ∀ x ∈ stages ctx, x.compares = false) : False := by
    simp [quiet g (locate_spec hl).1] at hc
  cases ctx with
  | modexp rd ra rb rm k => exact (elsewhere (by simp [stages])).elim
  | sign mode k =>
    cases mode with
    | noncrt => exact (elsewhere (by simp [stages])).elim
    | crtDirect => exact (elsewhere (by simp [stages])).elim
    | crtShamir =>
      refine ⟨k, rfl, ?_⟩
      obtain ⟨rfl, -⟩ | ⟨m₁, prep, hl⟩ := locate_cons_cases hl
      · cases hc
      obtain ⟨rfl, -⟩ | ⟨m₂, branch₁, hl⟩ := locate_cons_cases hl
      · cases hc
      obtain ⟨rfl, -⟩ | ⟨m₃, branch₂, hl⟩ := locate_cons_cases hl
      · cases hc
      obtain ⟨rfl, check⟩ | ⟨m₄, -, hl⟩ := locate_cons_cases hl
      · simp only [StageBody.length, expLength, MacroContext.width, prepShamir, checkOps, List.length_cons,
          List.length_nil] at prep branch₁ branch₂ last
        omega
      obtain ⟨rfl, -⟩ | ⟨m₅, -, hl⟩ := locate_cons_cases hl
      · cases hc
      · cases hl

/-- `t` is where `n` micro-ops of `ctx`, begun in `s` with the host idle, have led, with more to come. -/
structure UnderWay (s : State) (ctx : MacroContext) (n : Nat) (t : State) : Prop where
  running : t.running = some ⟨ctx, n⟩
  inside : n < ctx.total
  idle : HostIdle t
  clock : t.clock = s.clock + BitVec.ofNat 64 n
  errors : SameErrors s t
  phase : ctx.endPhase t.phase = ctx.endPhase s.phase

/-- The three ends of a macro begun in `s` (R191, R213, R221, R228). -/
inductive MacroEnd (s : State) (ctx : MacroContext) (t : State) : Prop where
  | finished (clock : t.clock = s.clock + BitVec.ofNat 64 (cyclesOf ctx)) (errors : SameErrors s t)
      (phase : t.phase = ctx.endPhase s.phase)
  | detected (k : Nat) (shamir : ctx = .sign .crtShamir k) (phase : t.phase = .faultDetected)
      (flag : t.faultDetected = true) (errors : SameErrors s t)
      (clock : t.clock = s.clock + BitVec.ofNat 64 (13 + 4 * k))
  | halted (phase : t.phase = .halted) (flag : t.errModZero = true)

theorem SameErrors.trans {s t u : State} (h : SameErrors s t) (k : SameErrors t u) : SameErrors s u := by
  obtain ⟨illegal, modZero, seq, csr, info⟩ := h
  obtain ⟨illegal', modZero', seq', csr', info'⟩ := k
  exact ⟨illegal'.trans illegal, modZero'.trans modZero, seq'.trans seq, csr'.trans csr, info'.trans info⟩

/-- `n` cycles and one more. -/
theorem clock_add_succ (c : CsrWord) (n : Nat) : c + BitVec.ofNat 64 n + 1#64 = c + BitVec.ofNat 64 (n + 1) := by
  rw [BitVec.add_assoc, BitVec.ofNat_add]

/-- The sequencer's actions after a completed micro-op of a macro under way. -/
theorem UnderWay.afterMicroOp {s t u : State} {ctx : MacroContext} {n : Nat} {g : Stage} {off : Nat} {rd : Reg}
    {v : Nat} (h : UnderWay s ctx n t) (hl : locate ctx.width (stages ctx) n = some (g, off))
    (retired : Retired (t.enterStage g off) u false rd v) (idle : HostIdle (u.afterMicroOp ⟨ctx, n⟩ g off)) :
    UnderWay s ctx (n + 1) (u.afterMicroOp ⟨ctx, n⟩ g off) ∨
    ((u.afterMicroOp ⟨ctx, n⟩ g off).running = none ∧ MacroEnd s ctx (u.afterMicroOp ⟨ctx, n⟩ g off)) := by
  have entered := enterStage_controlMoved t g off
  obtain ⟨phase, running, -, -⟩ := retired.control
  have errors : SameErrors s u := (h.errors.trans entered.errors).trans retired.errors
  have clock : u.clock = s.clock + BitVec.ofNat 64 (n + 1) := by
    rw [retired.counted rfl, entered.clock, h.clock, clock_add_succ]
  have endPhase : ctx.endPhase u.phase = ctx.endPhase s.phase := by
    rw [phase, endPhase_enterStage t off (locate_spec hl).1, h.phase]
  have goesOn : u.running ≠ none := by
    obtain ⟨p, e⟩ := enterStage_eq t g off
    simp [running, e, h.running]
  rcases afterMicroOp_cases u ⟨ctx, n⟩ g off with
    ⟨stopped, -⟩ | ⟨-, compares, last, -, e⟩ | ⟨-, last, e⟩ | ⟨-, more, e⟩
  · exact absurd stopped goesOn
  · obtain ⟨k, rfl, rfl⟩ := compare_position hl compares last
    rw [e]
    exact .inr ⟨rfl, .detected k rfl rfl rfl errors (by rwa [show 12 + 4 * k + 1 = 13 + 4 * k by omega] at clock)⟩
  · have ended := afterMicroOp_controlMoved u ⟨ctx, n⟩ g off
    rw [e] at ended ⊢
    refine .inr ⟨finish_running u ctx, .finished ?_ (errors.trans ended.errors) ?_⟩
    · rw [← total_eq_cyclesOf, ended.clock, clock]
      exact last ▸ rfl
    · exact (finish_phase u ctx).trans endPhase
  · rw [e] at idle ⊢
    exact .inl ⟨rfl, Nat.lt_of_le_of_ne h.inside more, idle, clock, errors, endPhase⟩

/-- A macro under way steps to its next position or to one of its ends. -/
theorem UnderWay.step_cases {s t : State} {ctx : MacroContext} {n : Nat} (h : UnderWay s ctx n t) :
    ∃ u, step t = .next u ∧ (UnderWay s ctx (n + 1) u ∨ (u.running = none ∧ HostIdle u ∧ MacroEnd s ctx u)) := by
  have inside : ∀ r, t.running = some r → r.seq < r.mctx.total := by
    rw [h.running]
    rintro r ⟨⟩
    exact h.inside
  obtain ⟨u, hu⟩ := engineStep_next inside
  have idle : HostIdle u := (engineStep_host hu).1.trans h.idle
  refine ⟨u, (step_of_idle h.idle).trans hu, ?_⟩
  obtain ⟨g, off, hl, ⟨word, error⟩ | ⟨w, rd, v, retired, rfl⟩⟩ := engineStep_running_cases h.running hu
  · obtain ⟨phase, stopped⟩ := error.halt (.inr rfl)
    exact .inr ⟨stopped, idle, .halted phase (by rw [error.modZeroBit]; simp)⟩
  · exact (h.afterMicroOp hl retired idle).imp_right fun ⟨stopped, ended⟩ => ⟨stopped, idle, ended⟩

/-- A macro under way has ended once its remaining micro-ops have had their steps, early ends resting. -/
theorem UnderWay.run_ends {s t : State} {ctx : MacroContext} {n : Nat} (h : UnderWay s ctx n t) (m : Nat)
    (hm : n + m = ctx.total) :
    ∃ u, Host.Core.run Sys2Proof.core m t = .next u ∧ u.running = none ∧ MacroEnd s ctx u := by
  induction m generalizing n t with
  | zero => exact absurd h.inside (by omega)
  | succ m ih =>
    obtain ⟨u, stepped, more | ⟨stopped, idle, ended⟩⟩ := h.step_cases
    · obtain ⟨v, ran, ended⟩ := ih more (by omega)
      exact ⟨v, (run_succ (M := Sys2Proof.core) stepped m).trans ran, ended⟩
    · exact ⟨u, (run_succ (M := Sys2Proof.core) stepped m).trans (run_of_rest stopped idle m), stopped, ended⟩

/-- Settles O22: the macro is under way at its first micro-op, and has one of the three ends after its last. -/
theorem everyMacroEndsWithItsCycleCount : Obligations.EveryMacroEndsWithItsCycleCount := by
  intro s ctx hr hi
  have begun : UnderWay s ctx 0 s :=
    ⟨hr, total_pos ctx, hi, (BitVec.add_zero s.clock).symm, ⟨rfl, rfl, rfl, rfl, rfl⟩, rfl⟩
  obtain ⟨t, ran, stopped, ended⟩ := begun.run_ends (cyclesOf ctx) (by rw [total_eq_cyclesOf, Nat.zero_add])
  refine ⟨t, ran, (busy_eq_false_iff t).mpr stopped, ?_⟩
  cases ended with
  | finished clock errors phase => exact .inl ⟨clock, errors, by cases ctx <;> exact phase⟩
  | detected k shamir phase flag errors clock => exact .inr (.inl ⟨k, shamir, phase, flag, errors, clock⟩)
  | halted phase flag => exact .inr (.inr ⟨phase, flag⟩)

end Sys2Proof.Machine

/-! PROOFS of the family 30_encoding.md. A row of R103 accepts exactly the words that the encoder writes for the row's
instructions, and every legal word with the row's opcode and mode (R102, R106); decoding follows from these two
readings of the table. -/

namespace Sys2Proof

/-! ## Fields and masks -/

/-- A word is an encoding where it has its fields (R100). -/
theorem fieldWord_eq_iff (opc : BitVec 4) (nc : Bool) (rd ra rb rm : Reg) (mode : BitVec 2) (w : InstrWord) :
    fieldWord opc nc rd ra rb rm mode = w ↔
      w.extractLsb' 28 4 = opc ∧ w.getLsbD 27 = nc ∧ w.extractLsb' 24 3 = 0#3 ∧
      w.extractLsb' 20 4 = BitVec.ofFin (w := 4) rd ∧ w.extractLsb' 16 4 = BitVec.ofFin (w := 4) ra ∧
      w.extractLsb' 12 4 = BitVec.ofFin (w := 4) rb ∧ w.extractLsb' 8 4 = BitVec.ofFin (w := 4) rm ∧
      w.extractLsb' 2 6 = 0#6 ∧ w.extractLsb' 0 2 = mode := by
  constructor
  · rintro rfl
    simp
  · rintro ⟨rfl, rfl, res1, rd, ra, rb, rm, res2, rfl⟩
    apply word_ext <;> simp [noCount_field, *]

/-! A field that a row's mask covers is compared whole; the masks of R103 cover a field whole or not at all. -/

theorem and_mask1 (x : BitVec 1) : x &&& 1#1 = x := BitVec.and_allOnes
theorem and_mask2 (x : BitVec 2) : x &&& 3#2 = x := BitVec.and_allOnes
theorem and_mask3 (x : BitVec 3) : x &&& 7#3 = x := BitVec.and_allOnes
theorem and_mask4 (x : BitVec 4) : x &&& 15#4 = x := BitVec.and_allOnes
theorem and_mask6 (x : BitVec 6) : x &&& 63#6 = x := BitVec.and_allOnes

theorem noCount_field_eq_zero_iff (w : InstrWord) : w.extractLsb' 27 1 = 0#1 ↔ w.getLsbD 27 = false := by
  rw [noCount_field]
  cases w.getLsbD 27 <;> decide

/-! ## The rows of R103 -/

/-- A row accepts a word exactly where the instruction it reads from the word is encoded by that word. -/
theorem accepts_iff_encodes {row : EncodingRow} (h : row ∈ encodingRows) (w : InstrWord) (imm : Word) :
    row.accepts w = true ↔ encodeWord (assemble row.mnemonic w imm) = w := by
  simp only [encodingRows, List.mem_cons, List.not_mem_nil, or_false] at h
  rcases h with rfl | rfl | rfl | rfl | rfl | rfl | rfl | rfl | rfl | rfl | rfl | rfl | rfl <;>
    simp [EncodingRow.accepts, mask_eq_iff, assemble, encodeWord, fieldWord_eq_iff, and_mask1, and_mask2, and_mask3,
      and_mask4, and_mask6, noCount_field_eq_zero_iff]

/-- A legal word is accepted by a row of its opcode and mode (R102, R106). -/
theorem accepts_of_legal {row : EncodingRow} (h : row ∈ encodingRows) {w : InstrWord} (legal : legalWord w = true)
    (opc : w.extractLsb' 28 4 = row.bits.extractLsb' 28 4) (mode : w.extractLsb' 0 2 = row.bits.extractLsb' 0 2) :
    row.accepts w = true := by
  simp only [legalWord, opcodeAssigned, reservedClear, unusedClear, noCountAllowed, modeAssigned, opc, mode] at legal
  simp only [encodingRows, List.mem_cons, List.not_mem_nil, or_false] at h
  rcases h with rfl | rfl | rfl | rfl | rfl | rfl | rfl | rfl | rfl | rfl | rfl | rfl | rfl <;>
    simp at legal opc mode <;>
    simp [EncodingRow.accepts, mask_eq_iff, and_mask1, and_mask2, and_mask4, noCount_field_eq_zero_iff, opc, mode,
      legal]

/-- Two rows that accept one word are one row: on the bits that both masks cover, the rows of R103 differ. -/
theorem accepting_row_unique {row row' : EncodingRow} (h : row ∈ encodingRows) (h' : row' ∈ encodingRows)
    {w : InstrWord} (a : row.accepts w = true) (a' : row'.accepts w = true) : row = row' := by
  have disjoint : ∀ r ∈ encodingRows, ∀ r' ∈ encodingRows, r.bits &&& r'.mask = r'.bits &&& r.mask → r = r' := by
    decide
  apply disjoint row h row' h'
  rw [← beq_iff_eq.mp a, ← beq_iff_eq.mp a', BitVec.and_assoc, BitVec.and_assoc, BitVec.and_comm row.mask]

/-- Every opcode and mode that R102 and R104 assign has a row. -/
theorem exists_row_of_assigned : ∀ (opc : BitVec 4) (mode : BitVec 2), 1 ≤ opc.toNat → opc.toNat ≤ 11 →
    (if opc.toNat = 11 then mode ≠ 3#2 else mode = 0#2) →
    ∃ row ∈ encodingRows, opc = row.bits.extractLsb' 28 4 ∧ mode = row.bits.extractLsb' 0 2 := by
  decide

theorem exists_row_of_mnemonic (m : Mnemonic) : ∃ row ∈ encodingRows, row.mnemonic = m := by
  cases m <;> decide

/-- Decoding assembles the instruction of whichever row accepts the word (R108). -/
theorem decode_of_accepts {row : EncodingRow} (h : row ∈ encodingRows) {w : InstrWord} (a : row.accepts w = true)
    (imm : Word) : decode w imm = .instr (assemble row.mnemonic w imm) := by
  unfold decode
  split
  · rename_i found e
    have accepts := List.find?_some e
    rw [accepting_row_unique h (List.mem_of_find?_eq_some e) a accepts]
  · rename_i e
    exact absurd a (List.find?_eq_none.mp e row h)

/-- A decoded instruction was assembled by a row that accepts the word (R108). -/
theorem accepts_of_decode {w : InstrWord} {imm : Word} {i : Instr} (h : decode w imm = .instr i) :
    ∃ row ∈ encodingRows, row.accepts w = true ∧ i = assemble row.mnemonic w imm := by
  unfold decode at h
  split at h
  · rename_i row found
    cases h
    have accepts := List.find?_some found
    exact ⟨row, List.mem_of_find?_eq_some found, accepts, rfl⟩
  · cases h

/-! ## Decoding is the inverse of encoding -/

/-- The row of R103 that an instruction belongs to. -/
def Instr.mnemonic : Instr → Mnemonic
  | .addMod .. => .addMod
  | .subMod .. => .subMod
  | .mulMod .. => .mulMod
  | .modCopy .. => .modCopy
  | .copy .. => .copy
  | .modInverse .. => .modInverse
  | .addInverse .. => .addInverse
  | .loadImmediate .. => .loadImmediate
  | .tick .. => .tick
  | .modexp .. => .modexp
  | .signNoncrt => .signNoncrt
  | .signCrtDirect => .signCrtDirect
  | .signCrtShamir => .signCrtShamir

/-- The operand delivered beside the word is the instruction's own, where the instruction is a `load_immediate`
(R107). -/
def Instr.Carries (i : Instr) (imm : Word) : Prop := ∀ nc rd v, i = .loadImmediate nc rd v → v = imm

theorem carries_encodeOperand (i : Instr) : i.Carries (encodeOperand i) := by
  rintro nc rd v rfl
  rfl

theorem carries_assemble (m : Mnemonic) (w : InstrWord) (imm : Word) : (assemble m w imm).Carries imm := by
  intro nc rd v h
  cases m <;> cases h
  rfl

/-- The row of an instruction reads its operands back from its word. -/
theorem assemble_encodeWord {i : Instr} {imm : Word} (h : i.Carries imm) :
    assemble i.mnemonic (encodeWord i) imm = i := by
  cases i with
  | loadImmediate nc rd v =>
    obtain rfl := h nc rd v rfl
    simp [assemble, encodeWord, Instr.mnemonic]
  | _ => simp [assemble, encodeWord, Instr.mnemonic]

/-- A word with its operand decodes to the one instruction it is the encoding of (R107, R108). -/
theorem decode_eq_instr_iff (w : InstrWord) (imm : Word) (i : Instr) :
    decode w imm = .instr i ↔ encodeWord i = w ∧ i.Carries imm := by
  constructor
  · intro h
    obtain ⟨row, mem, accepts, rfl⟩ := accepts_of_decode h
    exact ⟨(accepts_iff_encodes mem w imm).mp accepts, carries_assemble row.mnemonic w imm⟩
  · rintro ⟨rfl, carries⟩
    obtain ⟨row, mem, ofRow⟩ := exists_row_of_mnemonic i.mnemonic
    have assembled : assemble row.mnemonic (encodeWord i) imm = i := ofRow ▸ assemble_encodeWord carries
    have accepts := (accepts_iff_encodes mem (encodeWord i) imm).mpr (congrArg encodeWord assembled)
    rw [decode_of_accepts mem accepts, assembled]

/-- Settles O2: an instruction carries its own operand, and any operand where it is no `load_immediate`. -/
theorem decodeInvertsEncode : Obligations.DecodeInvertsEncode := fun i =>
  ⟨(decode_eq_instr_iff _ _ i).mpr ⟨rfl, carries_encodeOperand i⟩,
    fun noLoad imm => (decode_eq_instr_iff _ imm i).mpr ⟨rfl, fun nc rd v e => absurd e (noLoad nc rd v)⟩⟩

/-- Settles O3: the other direction of the same equivalence. -/
theorem decodedInstructionSpellsItsWord : Obligations.DecodedInstructionSpellsItsWord := fun w imm i =>
  (decode_eq_instr_iff w imm i).mp

/-! ## Legal words -/

/-- Every encoding passes the checks of R106. -/
theorem legalWord_encodeWord (i : Instr) : legalWord (encodeWord i) = true := by
  cases i with
  | addMod => exact Laws.EncodesLegally.addMod ..
  | subMod => exact Laws.EncodesLegally.subMod ..
  | mulMod => exact Laws.EncodesLegally.mulMod ..
  | modCopy => exact Laws.EncodesLegally.modCopy ..
  | copy => exact Laws.EncodesLegally.copy ..
  | modInverse => exact Laws.EncodesLegally.modInverse ..
  | addInverse => exact Laws.EncodesLegally.addInverse ..
  | loadImmediate => exact Laws.EncodesLegally.loadImmediate ..
  | tick => exact Laws.EncodesLegally.tick ..
  | modexp => exact Laws.EncodesLegally.modexp ..
  | signNoncrt => exact Laws.EncodesLegally.signNoncrt
  | signCrtDirect => exact Laws.EncodesLegally.signCrtDirect
  | signCrtShamir => exact Laws.EncodesLegally.signCrtShamir

theorem opcodeAssigned_iff (w : InstrWord) : opcodeAssigned w = true ↔
    1 ≤ (w.extractLsb' 28 4).toNat ∧ (w.extractLsb' 28 4).toNat ≤ 11 := by
  simp only [opcodeAssigned, Bool.and_eq_true, decide_eq_true_eq]

theorem modeAssigned_iff (w : InstrWord) : modeAssigned w = true ↔
    if (w.extractLsb' 28 4).toNat = 11 then w.extractLsb' 0 2 ≠ 3#2 else w.extractLsb' 0 2 = 0#2 := by
  simp only [modeAssigned]
  split <;> simp only [bne_iff_ne, beq_iff_eq]

/-- The words that the table of R103 accepts are those that pass the checks of R106. -/
theorem exists_accepts_iff_legalWord (w : InstrWord) :
    (∃ row ∈ encodingRows, row.accepts w = true) ↔ legalWord w = true := by
  constructor
  · rintro ⟨row, mem, accepts⟩
    rw [← (accepts_iff_encodes mem w 0).mp accepts]
    exact legalWord_encodeWord _
  · intro legal
    have checks := legal
    simp only [legalWord, Bool.and_eq_true, opcodeAssigned_iff, modeAssigned_iff] at checks
    obtain ⟨⟨⟨⟨⟨low, high⟩, -⟩, -⟩, -⟩, mode⟩ := checks
    obtain ⟨row, mem, sameOpc, sameMode⟩ := exists_row_of_assigned _ _ low high mode
    exact ⟨row, mem, accepts_of_legal mem legal sameOpc sameMode⟩

/-- Decoding rejects exactly the words that a check of R106 fails (R108). -/
theorem decode_illegal_iff (w : InstrWord) (imm : Word) : decode w imm = .illegal ↔ legalWord w = false := by
  rw [← Bool.not_eq_true, ← exists_accepts_iff_legalWord]
  constructor
  · rintro illegal ⟨row, mem, accepts⟩
    rw [decode_of_accepts mem accepts] at illegal
    cases illegal
  · intro noRow
    cases h : decode w imm with
    | illegal => rfl
    | instr i =>
      obtain ⟨row, mem, accepts, -⟩ := accepts_of_decode h
      exact absurd ⟨row, mem, accepts⟩ noRow

/-! ## The five causes of R106 -/

theorem reservedClear_eq_false_iff (w : InstrWord) :
    reservedClear w = false ↔ w.extractLsb' 24 3 ≠ 0#3 ∨ w.extractLsb' 2 6 ≠ 0#6 := by
  rw [reservedClear, Bool.and_eq_false_iff, beq_eq_false_iff_ne, beq_eq_false_iff_ne]

theorem noCountAllowed_eq_false_iff (w : InstrWord) :
    noCountAllowed w = false ↔ 9 ≤ (w.extractLsb' 28 4).toNat ∧ w.getLsbD 27 = true := by
  rw [noCountAllowed, Bool.or_eq_false_iff, Bool.not_eq_false', decide_eq_false_iff_not, and_comm, Nat.not_le]
  rfl

theorem opcodeAssigned_eq_false_iff (w : InstrWord) : opcodeAssigned w = false ↔
    (w.extractLsb' 28 4).toNat = 0 ∨ 12 ≤ (w.extractLsb' 28 4).toNat := by
  rw [← Bool.not_eq_true, opcodeAssigned_iff]
  omega

theorem modeAssigned_eq_false_iff (w : InstrWord) : modeAssigned w = false ↔
    ((w.extractLsb' 28 4).toNat = 11 ∧ w.extractLsb' 0 2 = 3#2) ∨
    ((w.extractLsb' 28 4).toNat ≠ 11 ∧ w.extractLsb' 0 2 ≠ 0#2) := by
  rw [← Bool.not_eq_true, modeAssigned_iff]
  by_cases sign : (w.extractLsb' 28 4).toNat = 11 <;> simp only [sign, if_true, if_false, ne_eq, not_not, not_true,
    not_false_iff, true_and, false_and, or_false, false_or]

theorem unusedClear_eq_false_iff (w : InstrWord) :
    let opc := (w.extractLsb' 28 4).toNat
    let rd := w.extractLsb' 20 4
    let ra := w.extractLsb' 16 4
    let rb := w.extractLsb' 12 4
    let rm := w.extractLsb' 8 4
    unusedClear w = false ↔
      (opc = 4 ∨ opc = 6 ∨ opc = 7) ∧ rb ≠ 0#4 ∨
      opc = 5 ∧ (rb ≠ 0#4 ∨ rm ≠ 0#4) ∨
      (opc = 8 ∨ opc = 9) ∧ (ra ≠ 0#4 ∨ rb ≠ 0#4 ∨ rm ≠ 0#4) ∨
      opc = 11 ∧ (rd ≠ 0#4 ∨ ra ≠ 0#4 ∨ rb ≠ 0#4 ∨ rm ≠ 0#4) := by
  dsimp only
  unfold unusedClear
  dsimp only
  split <;> simp_all [imp_iff_not_or, or_assoc]

/-- Settles O4: a rejected word fails a check of R106, and the failed checks are its five causes. An opcode of 12 or
more is a cause already, so the bound on the no-count cause costs nothing. -/
theorem illegalWordsAreThoseOfRule106 : Obligations.IllegalWordsAreThoseOfRule106 := by
  intro w imm
  dsimp only
  rw [decode_illegal_iff]
  simp only [legalWord, Bool.and_eq_false_iff, opcodeAssigned_eq_false_iff, reservedClear_eq_false_iff,
    unusedClear_eq_false_iff, noCountAllowed_eq_false_iff, modeAssigned_eq_false_iff]
  by_cases high : 12 ≤ (w.extractLsb' 28 4).toNat
  · simp only [high, or_true, true_or]
  · have low : (w.extractLsb' 28 4).toNat ≤ 11 := by omega
    simp only [low, true_and, or_assoc]
    exact iff_of_eq (by ac_rfl)

/-- Settles O1: every word of the table is the encoder's, so the decoder reads it back; the one `load_immediate`
among them carries the operand delivered. -/
theorem encodingExamplesOfTheSpec : Obligations.EncodingExamplesOfTheSpec := by
  intro imm spells
  have read {w : InstrWord} {i : Instr} (e : encodeWord i = w) (c : i.Carries imm) : spells w i :=
    ⟨e, (decode_eq_instr_iff w imm i).mpr ⟨e, c⟩⟩
  refine ⟨?_, ?_, ?_, ?_, ?_, ?_, ?_, ?_, ?_, ?_, ?_, ?_, ?_, ?_⟩ <;>
    exact read rfl (by rintro _ _ _ ⟨⟩ <;> rfl)

end Sys2Proof

namespace Sys2Proof.Machine

/-! ## The no-count bit -/

/-- Settles O14: with `NC = 1` a primitive ends uncounted or with `MODZERO`, and neither completes a cycle. -/
theorem noCountSkipsCycleCompletion : Obligations.NoCountSkipsCycleCompletion := by
  constructor
  · intro i s t prim nc run
    have draws := exec_primitive_draws prim run (.inl nc)
    rcases exec_primitive_cases prim run with ⟨rd, v, retired, -⟩ | error
    · obtain ⟨-, clock, fault⟩ := retired.uncounted nc
      exact ⟨clock, fault, draws⟩
    · exact ⟨error.clock, error.fault, draws⟩
  · intro ctx g k off s i mem micro
    have isMicro := stage_microOp_isMicroOp mem micro
    simp only [Instr.isMicroOp, Bool.and_eq_true, Bool.not_eq_true'] at isMicro
    exact isMicro.2

end Sys2Proof.Machine

/-! PROOFS of the family 40_register_ops.md. What each primitive writes; the engine step that runs one as a micro-op;
where the fault of a running `sign` lands, and how the Shamir check ends. -/

namespace Sys2Proof

/-- The word of an instruction matches the row of R103 that carries the instruction's mnemonic. -/
theorem encodeWord_matches_row (i : Instr) {bits mask : InstrWord} (h : ⟨i.mnemonic, bits, mask⟩ ∈ encodingRows) :
    encodeWord i &&& mask = bits := by
  have assembled := assemble_encodeWord (carries_encodeOperand i)
  have accepts := (accepts_iff_encodes h (encodeWord i) (encodeOperand i)).mpr (congrArg encodeWord assembled)
  exact beq_iff_eq.mp accepts

end Sys2Proof

namespace Sys2Proof.Machine

/-! ## The arithmetic of the results -/

/-- The floored remainder is congruent to the difference (R8, R141). -/
theorem dvd_sub_subMod (a b : Nat) {m : Nat} (h : 0 < m) : (m : Int) ∣ ((a : Int) - b - subMod a b m) := by
  rw [subMod_cast a b h]
  exact Int.dvd_self_sub_of_emod_eq rfl

/-- `addInverse` completes its argument to a multiple of the modulus (R146). -/
theorem dvd_add_addInverse (a : Nat) {m : Nat} (h : 0 < m) : m ∣ a + addInverse a m := by
  have residue : a % m < m := Nat.mod_lt a h
  have completed : (a + (m - a % m)) % m = 0 := by
    rw [← Nat.mod_add_mod, Nat.add_sub_cancel' residue.le, Nat.mod_self]
  rw [Nat.dvd_iff_mod_eq_zero, addInverse, Nat.add_mod_mod, completed]

theorem invertible_iff (a m : Nat) : invertible a m = true ↔ Nat.gcd (a % m) m = 1 := beq_iff_eq

/-! ## How a primitive ends -/

/-- A primitive with no modulus completes with its value. -/
theorem exec_retires {i : Instr} {s : State} {nc : Bool} {rd : Reg} {v : Word}
    (run : exec i s = .next (s.retire nc rd v)) :
    ∃ t, exec i s = .next t ∧ Retired s t nc rd v.toNat ∧ t.nonInv = s.nonInv :=
  ⟨_, run, retire_retired s nc rd v, retire_nonInv s nc rd v⟩

/-- A primitive with a modulus completes with its result, or takes `MODZERO` where the modulus is 0 (R131, R133). -/
theorem exec_modular {i : Instr} {s : State} {nc : Bool} {rd rm : Reg} {result : Nat → Nat}
    (reduced : ∀ m, 0 < m → result m < m) (run : exec i s = .next (s.modular i nc rd rm result)) :
    (s.val rm ≠ 0 → ∃ t, exec i s = .next t ∧ Retired s t nc rd (result (s.val rm)) ∧ t.nonInv = s.nonInv) ∧
    (s.val rm = 0 → ∃ t, exec i s = .next t ∧ ErrorTaken s t .modZero (encodeWord i)) := by
  rcases modular_cases s i nc rd rm result reduced with ⟨zero, error⟩ | ⟨nonzero, retired, nonInv⟩
  · exact ⟨fun nonzero => absurd zero nonzero, fun _ => ⟨_, run, error⟩⟩
  · exact ⟨fun _ => ⟨_, run, retired, nonInv⟩, fun zero => absurd zero nonzero⟩

/-- A completion is one seen from before `NONINV` was set, too. -/
theorem Retired.of_markNonInv {s t : State} {nc : Bool} {rd : Reg} {v : Nat} (h : Retired s.markNonInv t nc rd v) :
    Retired s t nc rd v :=
  ⟨h.others, h.config, h.errors, h.signing, h.control, h.uncounted, h.counted, h.quiet, h.faulted⟩

/-- `mod_inverse` where there is an inverse, or where the modulus is 0: `NONINV` is not touched. -/
theorem exec_modInverse_of_noted {s : State} (nc : Bool) (rd : Reg) {ra rm : Reg}
    (h : s.val rm = 0 ∨ invertible (s.val ra) (s.val rm) = true) :
    exec (.modInverse nc rd ra rm) s =
      .next (s.modular (.modInverse nc rd ra rm) nc rd rm (modInverse (s.val ra))) := by
  have kept : s.noteInverse ra rm = s := if_pos (by simpa using h)
  show Host.Outcome.next ((s.noteInverse ra rm).modular _ _ _ _ _) = _
  rw [kept]

/-- `mod_inverse` where there is no inverse sets `NONINV` first. -/
theorem exec_modInverse_of_not_invertible {s : State} (nc : Bool) (rd : Reg) {ra rm : Reg} (hm : s.val rm ≠ 0)
    (h : invertible (s.val ra) (s.val rm) = false) :
    exec (.modInverse nc rd ra rm) s =
      .next (s.markNonInv.modular (.modInverse nc rd ra rm) nc rd rm (modInverse (s.val ra))) := by
  have noted : s.noteInverse ra rm = s.markNonInv := if_neg (by simp [hm, h])
  show Host.Outcome.next ((s.noteInverse ra rm).modular _ _ _ _ _) = _
  rw [noted]

/-! ## The nine primitives -/

/-- Settles O5: `exec` ends in `modular` with the sum of R140, a residue. -/
theorem addModWritesTheReducedSum : Obligations.AddModWritesTheReducedSum := fun _ _ _ _ _ _ =>
  ⟨encodeWord_matches_row _ (by simp [encodingRows, Instr.mnemonic]), exec_modular (fun _ => addMod_lt _ _) rfl⟩

/-- Settles O6: the floored remainder is the residue below the modulus congruent to the difference. -/
theorem subModWritesTheCanonicalDifference : Obligations.SubModWritesTheCanonicalDifference := by
  intro nc rd ra rb rm s
  obtain ⟨completes, fails⟩ : _ ∧ _ :=
    exec_modular (i := .subMod nc rd ra rb rm) (s := s) (fun _ => subMod_lt (s.val ra) (s.val rb)) rfl
  refine ⟨encodeWord_matches_row _ (by simp [encodingRows, Instr.mnemonic]), fun nonzero => ?_, fails⟩
  have positive : 0 < s.val rm := Nat.pos_of_ne_zero nonzero
  obtain ⟨t, run, retired, nonInv⟩ := completes nonzero
  exact ⟨t, _, run, subMod_lt _ _ positive, dvd_sub_subMod _ _ positive, retired, nonInv⟩

/-- Settles O7: `exec` ends in `modular` with the product of R142, a residue. -/
theorem mulModWritesTheReducedProduct : Obligations.MulModWritesTheReducedProduct := fun _ _ _ _ _ _ =>
  ⟨encodeWord_matches_row _ (by simp [encodingRows, Instr.mnemonic]), exec_modular (fun _ => mulMod_lt _ _) rfl⟩

/-- Settles O8: `exec` ends in `modular` with the source reduced (R143). -/
theorem modCopyWritesTheReducedSource : Obligations.ModCopyWritesTheReducedSource := fun _ _ _ _ _ =>
  ⟨encodeWord_matches_row _ (by simp [encodingRows, Instr.mnemonic]), exec_modular (fun _ => modCopy_lt _) rfl⟩

/-- Settles O9: `copy` only retires. -/
theorem copyWritesTheSource : Obligations.CopyWritesTheSource := fun _ _ _ _ =>
  ⟨encodeWord_matches_row _ (by simp [encodingRows, Instr.mnemonic]), exec_retires rfl⟩

/-- Settles O10: Euclid's cofactor is the inverse where the gcd is 1; else `NONINV` is set before the 0 is written. -/
theorem modInverseInvertsOrFlags : Obligations.ModInverseInvertsOrFlags := by
  intro nc rd ra rm s
  have reduced (m : Nat) (h : 0 < m) : modInverse (s.val ra) m < m := modInverse_lt _ h
  refine ⟨encodeWord_matches_row _ (by simp [encodingRows, Instr.mnemonic]), fun nonzero coprime => ?_,
    fun nonzero notCoprime => ?_, fun zero => ?_⟩
  · have positive : 0 < s.val rm := Nat.pos_of_ne_zero nonzero
    have inverts := (invertible_iff _ _).mpr coprime
    obtain ⟨t, run, retired, nonInv⟩ :=
      (exec_modular reduced (exec_modInverse_of_noted nc rd (.inr inverts))).1 nonzero
    exact ⟨t, _, run, modInverse_lt _ positive, modInverse_mul positive inverts, retired, nonInv⟩
  · have noInverse : invertible (s.val ra) (s.val rm) = false := by
      rwa [← Bool.not_eq_true, invertible_iff]
    have run := exec_modInverse_of_not_invertible nc rd nonzero noInverse
    rcases modular_cases s.markNonInv (.modInverse nc rd ra rm) nc rd rm _ reduced with
      ⟨zero, -⟩ | ⟨-, retired, nonInv⟩
    · exact absurd zero nonzero
    · rw [markNonInv_val, modInverse_of_not_invertible noInverse] at retired
      exact ⟨_, run, retired.of_markNonInv, nonInv⟩
  · exact (exec_modular reduced (exec_modInverse_of_noted nc rd (.inl zero))).2 zero

/-- Settles O11: the residue that `addInverse` computes completes `x[ra]` to a multiple of the modulus. -/
theorem addInverseWritesTheNegatedResidue : Obligations.AddInverseWritesTheNegatedResidue := by
  intro nc rd ra rm s
  obtain ⟨completes, fails⟩ : _ ∧ _ :=
    exec_modular (i := .addInverse nc rd ra rm) (s := s) (fun _ => addInverse_lt (s.val ra)) rfl
  refine ⟨encodeWord_matches_row _ (by simp [encodingRows, Instr.mnemonic]), fun nonzero => ?_, fails⟩
  have positive : 0 < s.val rm := Nat.pos_of_ne_zero nonzero
  obtain ⟨t, run, retired, nonInv⟩ := completes nonzero
  exact ⟨t, _, run, addInverse_lt _ positive, dvd_add_addInverse _ positive, retired, nonInv⟩

/-- Settles O12: the operand is carried by the instruction, beside the word, and only retires. -/
theorem loadImmediateWritesItsOperand : Obligations.LoadImmediateWritesItsOperand := fun nc rd imm _ =>
  ⟨encodeWord_matches_row _ (by simp [encodingRows, Instr.mnemonic]),
    (decodeInvertsEncode (.loadImmediate nc rd imm)).1, exec_retires rfl⟩

/-- Settles O13: `tick` retires its register's own value. -/
theorem tickCompletesACycle : Obligations.TickCompletesACycle := fun _ _ =>
  ⟨encodeWord_matches_row _ (by simp [encodingRows, Instr.mnemonic]), exec_retires rfl⟩

/-! ## The engine step -/

/-- After a completed micro-op the macro is at its next position or has ended (R130, R191, R221). -/
theorem afterMicroOp_running (u : State) (r : Running) (g : Stage) (off : Nat) :
    (u.afterMicroOp r g off).running = some ⟨r.mctx, r.seq + 1⟩ ∨ (u.afterMicroOp r g off).running = none := by
  rcases afterMicroOp_cases u r g off with ⟨stopped, e⟩ | ⟨-, -, -, -, e⟩ | ⟨-, -, e⟩ | ⟨-, -, e⟩ <;> rw [e]
  · exact .inr stopped
  · exact .inr rfl
  · exact .inr (finish_running u r.mctx)
  · exact .inl rfl

/-- Settles O18: the micro-op takes `MODZERO`, or retires with `NC = 0`; what surrounds it only moves control. -/
theorem engineStepRunsOneMicroOp : Obligations.EngineStepRunsOneMicroOp := by
  intro s t r hr nothing h
  obtain ⟨l, e⟩ := step_of_acceptsNothing nothing
  obtain ⟨g, off, -, ran⟩ := engineStep_running_cases (s := s.setPending l) hr (e ▸ h)
  have before := enterStage_controlMoved (s.setPending l) g off
  rcases ran with ⟨word, error⟩ | ⟨u, rd, v, retired, rfl⟩
  · obtain ⟨halted, stopped⟩ := error.halt (.inr rfl)
    exact .inl ⟨halted, by simp [error.modZeroBit], stopped, error.clock.trans before.clock,
      fun x => (error.regs x).trans (before.regs x)⟩
  · have after := afterMicroOp_controlMoved u r g off
    refine .inr ⟨?_, ⟨rd, fun x other => ?_⟩, (before.errors.trans retired.errors).trans after.errors,
      afterMicroOp_running u r g off⟩
    · rw [after.clock, retired.counted rfl, before.clock]
      rfl
    · exact (after.regs x).trans ((retired.others x other).trans (before.regs x))

/-- The engine step of a known micro-op. -/
theorem engineStep_of_micro {s u : State} {r : Running} {g : Stage} {off : Nat} {i : Instr}
    (hr : s.running = some r) (hl : locate r.mctx.width (stages r.mctx) r.seq = some (g, off))
    (micro : g.body.microOp r.mctx.width off (s.enterStage g off) = some i)
    (run : exec i (s.enterStage g off) = .next u) : engineStep s = .next (u.afterMicroOp r g off) := by
  simp [engineStep, hr, hl, runMicroOp, micro, run]

/-! ## The fault of a running `sign` -/

/-- A micro-op that fires the fault found it due (R135, R252). -/
theorem faultDue_of_fired {i : Instr} {s u : State} (micro : i.isMicroOp = true) (run : exec i s = .next u)
    (fresh : s.faultFired = false) (fired : u.faultFired = true) : FaultDue s := by
  obtain ⟨prim, counted⟩ := (isMicroOp_iff i).mp micro
  by_contra notDue
  have same : SameFaultRecord s u := by
    rcases exec_primitive_cases prim run with ⟨rd, v, retired, -⟩ | error
    · exact (retired.quiet counted notDue).2
    · exact error.fault
  rw [same.1, fresh] at fired
  cases fired

/-- A micro-op of an exponentiation completes on the accumulator, or takes `MODZERO` (R192). -/
theorem exec_expMicroOp_cases {rd ra rb rm : Reg} {k off : Nat} {a s u : State}
    (run : exec (expMicroOp rd ra rb rm k off a) s = .next u) :
    (∃ v, Retired s u false rd v) ∨ ∃ word, ErrorTaken s u .modZero word := by
  have product {x y : Reg} (run : exec (.mulMod false rd x y rm) s = .next u) :
      (∃ v, Retired s u false rd v) ∨ ∃ word, ErrorTaken s u .modZero word := by
    obtain ⟨-, completes, fails⟩ := mulModWritesTheReducedProduct false rd x y rm s
    by_cases zero : s.val rm = 0
    · obtain ⟨t, run', error⟩ := fails zero
      cases run'.symm.trans run
      exact .inr ⟨_, error⟩
    · obtain ⟨t, run', retired, -⟩ := completes zero
      cases run'.symm.trans run
      exact .inl ⟨_, retired⟩
  unfold expMicroOp at run
  split at run
  · obtain ⟨-, t, run', retired, -⟩ := copyWritesTheSource false rd Reg.ONE s
    cases run'.symm.trans run
    exact .inl ⟨_, retired⟩
  · split at run <;> exact product run

/-- A fault that fires inside an exponentiation is in its accumulator (R137). -/
theorem expMicroOp_fault_place {rd ra rb rm : Reg} {k off : Nat} {a s u : State}
    (run : exec (expMicroOp rd ra rb rm k off a) s = .next u) (due : FaultDue s) (fresh : s.faultFired = false)
    (fired : u.faultFired = true) : u.faultInfo.reg = rd := by
  rcases exec_expMicroOp_cases run with ⟨v, retired⟩ | ⟨word, error⟩
  · obtain ⟨-, b, -, -, place⟩ := retired.faulted rfl due
    rw [place]
  · rw [error.fault.1, fresh] at fired
    cases fired

/-- The accumulator of the exponentiation that shows the given state, in a CRT mode (R214, R218). -/
def branchRegister : Phase → Option Reg
  | .expBranch1 => some Reg.POW
  | .expBranch2 => some Reg.POW2
  | _ => none

/-- In a CRT mode the stage that shows a branch's state is the exponentiation of that branch. -/
theorem branch_stage_body {mode : SignMode} {k : Nat} {g : Stage} {p : Phase} {rd : Reg} (crt : mode ≠ .noncrt)
    (hg : g ∈ stages (.sign mode k)) (enters : g.enters = some p) (branch : branchRegister p = some rd) :
    g.compares = false ∧ ∃ ra rb rm, g.body = .exp rd ra rb rm := by
  cases mode with
  | noncrt => exact absurd rfl crt
  | crtDirect =>
    simp only [stages, List.mem_cons, List.not_mem_nil, or_false] at hg
    rcases hg with rfl | rfl | rfl | rfl <;> cases enters <;> cases branch <;> exact ⟨rfl, _, _, _, rfl⟩
  | crtShamir =>
    simp only [stages, List.mem_cons, List.not_mem_nil, or_false] at hg
    rcases hg with rfl | rfl | rfl | rfl | rfl <;> cases enters <;> cases branch <;> exact ⟨rfl, _, _, _, rfl⟩

/-- A position before the last stage is not the macro's last. -/
theorem succ_lt_of_locate_ne_last {k : Nat} {l : List Stage} {z : Stage} {n : Nat} {g : Stage} {off : Nat}
    (hl : locate k (l ++ [z]) n = some (g, off)) (hz : 0 < z.body.length k) (other : g ≠ z) :
    n + 1 < ((l ++ [z]).map (fun x => x.body.length k)).sum := by
  induction l generalizing n with
  | nil =>
    rcases locate_cons_cases hl with ⟨rfl, -⟩ | ⟨m, -, hl⟩
    · exact absurd rfl other
    · cases hl
  | cons a l ih =>
    rw [List.cons_append, List.map_cons, List.sum_cons]
    rcases locate_cons_cases hl with ⟨rfl, rfl⟩ | ⟨m, rfl, behind⟩
    · have inside := (locate_spec hl).2
      have last : z.body.length k ≤ ((l ++ [z]).map (fun x => x.body.length k)).sum := by simp
      omega
    · have further := ih behind
      omega

/-- The last stage of a CRT mode combines the branches (R214, R218). -/
theorem crt_stages_eq {mode : SignMode} (crt : mode ≠ .noncrt) (k : Nat) :
    ∃ l z, stages (.sign mode k) = l ++ [z] ∧ z.enters = some .combine ∧ 0 < z.body.length k := by
  cases mode with
  | noncrt => exact absurd rfl crt
  | crtDirect => exact ⟨[_, _, _], _, rfl, rfl, Nat.succ_pos _⟩
  | crtShamir => exact ⟨[_, _, _, _], _, rfl, rfl, Nat.succ_pos _⟩

/-- No branch's exponentiation holds the last micro-op of a `sign`. -/
theorem branch_stage_not_last {mode : SignMode} {k n off : Nat} {g : Stage} {p : Phase} {rd : Reg}
    (crt : mode ≠ .noncrt) (hl : locate k (stages (.sign mode k)) n = some (g, off)) (enters : g.enters = some p)
    (branch : branchRegister p = some rd) : n + 1 ≠ MacroContext.total (.sign mode k) := by
  obtain ⟨l, z, e, combines, filled⟩ := crt_stages_eq crt k
  have other : g ≠ z := by
    rintro rfl
    cases enters.symm.trans combines
    cases branch
  rw [MacroContext.total, e]
  rw [e] at hl
  exact (succ_lt_of_locate_ne_last hl filled other).ne

/-- A fault that the gate of a CRT mode lets through is in the selected branch (R136). -/
theorem FaultDue.branch {s : State} (due : FaultDue s) (busy : s.busy = true) (active : s.signActive = true)
    (crt : s.signMode ≠ .noncrt) :
    (s.faultBranch = .branchP ∧ s.phase = .expBranch1) ∨ (s.faultBranch = .branchQ ∧ s.phase = .expBranch2) := by
  obtain ⟨-, -, -, gate⟩ := due
  exact gate busy active crt

/-- Inside a branch's exponentiation a completed micro-op leads to the next position, `STATE` unchanged. -/
theorem afterMicroOp_branch_phase {u : State} {mode : SignMode} {k n off : Nat} {g : Stage} {p : Phase} {rd : Reg}
    (crt : mode ≠ .noncrt) (hl : locate k (stages (.sign mode k)) n = some (g, off)) (enters : g.enters = some p)
    (branch : branchRegister p = some rd) : (u.afterMicroOp ⟨.sign mode k, n⟩ g off).phase = u.phase := by
  have plain := (branch_stage_body crt (locate_spec hl).1 enters branch).1
  have more := branch_stage_not_last crt hl enters branch
  rcases afterMicroOp_cases u ⟨.sign mode k, n⟩ g off with
    ⟨-, e⟩ | ⟨-, compares, -⟩ | ⟨-, last, -⟩ | ⟨-, -, e⟩
  · rw [e]
  · rw [plain] at compares
    cases compares
  · exact absurd last more
  · rw [e]
    rfl

/-- The one stage of `noncrt` is the exponentiation into `C` (R213). -/
theorem noncrt_stage_body {k : Nat} {g : Stage} (hg : g ∈ stages (.sign .noncrt k)) :
    g.body = .exp Reg.C Reg.M Reg.D Reg.N := by
  simp only [stages, List.mem_singleton] at hg
  rw [hg]

/-- The engine step of a running `sign` that fires the fault. -/
theorem engineStep_fault_place {s t : State} {mode : SignMode} {k n : Nat} (hs : Consistent s)
    (hr : s.running = some ⟨.sign mode k, n⟩) (h : engineStep s = .next t) (fresh : s.faultFired = false)
    (fired : t.faultFired = true) :
    (mode = .noncrt → t.faultInfo.reg = Reg.C) ∧
    (mode ≠ .noncrt →
      (s.faultBranch = .branchP ∧ t.phase = .expBranch1 ∧ t.faultInfo.reg = Reg.POW) ∨
      (s.faultBranch = .branchQ ∧ t.phase = .expBranch2 ∧ t.faultInfo.reg = Reg.POW2)) := by
  rcases engineStep_cases h with ⟨stopped, -⟩ | ⟨r, g, off, i, u, hr', hl, micro, isMicro, run, rfl⟩
  · rw [hr] at stopped
    cases stopped
  cases hr.symm.trans hr'
  have before := enterStage_controlMoved s g off
  have after := afterMicroOp_controlMoved u ⟨.sign mode k, n⟩ g off
  have mid := hs.midStep hr hl
  obtain ⟨active, shows, enters⟩ := mid.shown
  have mem : g ∈ stages (.sign mode k) := (locate_spec hl).1
  replace fresh := before.fault.1.trans fresh
  replace fired := after.fault.1.symm.trans fired
  have due := faultDue_of_fired isMicro run fresh fired
  have place {rd ra rb rm : Reg} (body : g.body = .exp rd ra rb rm) :
      (u.afterMicroOp ⟨.sign mode k, n⟩ g off).faultInfo.reg = rd := by
    rw [body] at micro
    cases micro
    rw [after.fault.2]
    exact expMicroOp_fault_place run due fresh fired
  refine ⟨?_, fun crt => ?_⟩
  · rintro rfl
    exact place (noncrt_stage_body mem)
  have branch {rd : Reg} (named : branchRegister (s.enterStage g off).phase = some rd) :
      (u.afterMicroOp ⟨.sign mode k, n⟩ g off).phase = (s.enterStage g off).phase ∧
        (u.afterMicroOp ⟨.sign mode k, n⟩ g off).faultInfo.reg = rd := by
    obtain ⟨-, ra, rb, rm, body⟩ := branch_stage_body crt mem enters named
    refine ⟨(afterMicroOp_branch_phase crt hl enters named).trans ?_, place body⟩
    rcases exec_primitive_cases ((isMicroOp_iff i).mp isMicro).1 run with ⟨rd, v, retired, -⟩ | error
    · exact retired.control.1
    · rw [error.fault.1, fresh] at fired
      cases fired
  have busy : (s.enterStage g off).busy = true := by simp [State.busy, mid.running]
  obtain ⟨-, selector, -, -⟩ := before.config
  rcases due.branch busy active (shows ▸ crt) with ⟨selected, phase⟩ | ⟨selected, phase⟩
  · obtain ⟨kept, reg⟩ := branch (rd := Reg.POW) (by rw [phase]; rfl)
    exact .inl ⟨selector.symm.trans selected, kept.trans phase, reg⟩
  · obtain ⟨kept, reg⟩ := branch (rd := Reg.POW2) (by rw [phase]; rfl)
    exact .inr ⟨selector.symm.trans selected, kept.trans phase, reg⟩

/-- A step that accepts no `RESET` while a macro runs is the engine's, or answers a read (R74, R86). -/
theorem step_running_cases {s t : State} {r : Running} (hr : s.running = some r) (noReset : AcceptsNoReset s)
    (h : step s = .next t) :
    (∃ l, engineStep (s.setPending l) = .next t) ∨ ∃ rest reply, t = (s.setPending rest).pushReply reply := by
  have busy : s.busy = true := by simp [State.busy, hr]
  rcases step_cases h with ⟨hp, he⟩ | ⟨c, rest, -, -, -, he⟩ | ⟨⟨wait, command⟩, rest, hp, accepted, ha⟩
  · exact .inl ⟨[], by rwa [← hp]⟩
  · exact .inl ⟨_, he⟩
  have free : command.held = false := (accepted.resolve_left (by simp [busy])).2
  cases command with
  | reset => exact absurd rfl (command_ne_reset noReset hp accepted)
  | issue => cases free
  | csrRead addr => cases ha; exact .inr ⟨rest, _, rfl⟩
  | csrWrite => cases free
  | regRead r => cases ha; exact .inr ⟨rest, _, rfl⟩

/-- Settles O16: no read fires a fault, and the engine's step does so in an exponentiation, whose `STATE` the gate
asks for. -/
theorem signFaultLandsInTheSelectedBranch : Obligations.SignFaultLandsInTheSelectedBranch := by
  intro s t mode k n hs hr noReset h fresh fired
  rcases step_running_cases hr noReset h with ⟨l, he⟩ | ⟨rest, reply, rfl⟩
  · exact engineStep_fault_place (s := s.setPending l) (hs.setPending l) hr he fresh fired
  · exact absurd (fresh.symm.trans fired) (by decide)

/-! ## The Shamir check -/

/-- The stage of R220. -/
def checkStage : Stage := ⟨some .consistencyCheck, .ops checkOps, true⟩

/-- A position past the first stage is one of the other stages. -/
theorem locate_cons_add (k : Nat) (a : Stage) (rest : List Stage) (m : Nat) :
    locate k (a :: rest) (a.body.length k + m) = locate k rest m := by
  rw [locate, if_neg (by omega), Nat.add_sub_cancel_left]

/-- Micro-op `12 + 4K` of `crt_shamir` is the second of the check (R225). -/
theorem locate_check (k : Nat) : locate k (stages (.sign .crtShamir k)) (12 + 4 * k) = some (checkStage, 1) := by
  rw [show 12 + 4 * k = (StageBody.ops prepShamir).length k + (expLength k + (expLength k + 1)) by
    simp only [StageBody.length, expLength, prepShamir, List.length_cons, List.length_nil]
    omega]
  calc locate k (stages (.sign .crtShamir k)) _
      = locate k ((stages (.sign .crtShamir k)).drop 1) (expLength k + (expLength k + 1)) := locate_cons_add ..
    _ = locate k ((stages (.sign .crtShamir k)).drop 2) (expLength k + 1) := locate_cons_add ..
    _ = locate k ((stages (.sign .crtShamir k)).drop 3) 1 := locate_cons_add ..
    _ = some (checkStage, 1) := rfl

/-- After the check a `crt_shamir` ends where the residues differ, and goes on where they agree (R220, R221). -/
theorem afterMicroOp_check {u : State} (k : Nat) (hu : u.running ≠ none) :
    u.afterMicroOp ⟨.sign .crtShamir k, 12 + 4 * k⟩ checkStage 1 =
      if u.reg Reg.SCRATCH1 ≠ u.reg Reg.SCRATCH2 then u.detectFault
      else u.continueAt (.sign .crtShamir k) (13 + 4 * k) := by
  have next : 12 + 4 * k + 1 = 13 + 4 * k := by omega
  have more : 13 + 4 * k ≠ MacroContext.total (.sign .crtShamir k) := by
    rw [total_eq_cyclesOf, cyclesOf]
    omega
  simp [State.afterMicroOp, hu, next, more, checkStage, StageBody.length, checkOps]

/-- Settles O23: the `mod_copy` of the check completes with the gate closed, and the compare decides how its step
ends. -/
theorem shamirMismatchEndsInFaultDetected : Obligations.ShamirMismatchEndsInFaultDetected := by
  intro s k hs hr nothing nonzero
  obtain ⟨l, toEngine⟩ := step_of_acceptsNothing nothing
  have mid : MidStep (s.setPending l) _ checkStage := (hs.setPending l).midStep hr (locate_check k)
  obtain ⟨active, shows, enters⟩ := mid.shown
  have check : s.phase = .consistencyCheck := (Option.some_inj.mp enters).symm
  have notDue : ¬ FaultDue (s.setPending l) := fun due => by
    rcases due.branch (by simp [State.busy, hr]) active (by rw [shows]; decide) with ⟨-, phase⟩ | ⟨-, phase⟩ <;>
      cases check.symm.trans phase
  obtain ⟨-, completes, -⟩ :=
    modCopyWritesTheReducedSource false Reg.SCRATCH2 Reg.POW2 Reg.T (s.setPending l)
  obtain ⟨u, run, retired, -⟩ := completes nonzero
  obtain ⟨written, fault⟩ := retired.quiet rfl notDue
  obtain ⟨phase, running, -, -⟩ := retired.control
  obtain ⟨-, -, detected⟩ := retired.signing
  have kept : u.val Reg.SCRATCH1 = s.val Reg.SCRATCH1 :=
    congrArg BitVec.toNat (retired.others Reg.SCRATCH1 (by decide))
  have agree : u.reg Reg.SCRATCH1 = u.reg Reg.SCRATCH2 ↔
      s.val Reg.SCRATCH1 = s.val Reg.POW2 % s.val Reg.T := by
    rw [← BitVec.toNat_inj, ← kept]
    exact written ▸ Iff.rfl
  have ends := afterMicroOp_check (u := u) k (by simp [running, hr])
  have after := afterMicroOp_controlMoved u ⟨.sign .crtShamir k, 12 + 4 * k⟩ checkStage 1
  refine ⟨_, toEngine.trans (engineStep_of_micro hr (locate_check k) rfl run),
    (congrArg BitVec.toNat (after.regs _)).trans written,
    fun x other => (after.regs x).trans (retired.others x other), after.clock.trans (retired.counted rfl),
    ⟨after.fault.1.trans fault.1, after.fault.2.trans fault.2⟩, retired.errors.trans after.errors,
    fun differ => ?_, fun equal => ?_⟩
  · rw [ends, if_pos (differ ∘ agree.mp)]
    exact ⟨rfl, rfl, rfl⟩
  · rw [ends, if_neg (not_not_intro (agree.mpr equal))]
    exact ⟨detected, phase.trans check, rfl⟩

end Sys2Proof.Machine

/-! PROOFS of the family 41_modexp.md. One micro-op of `modexp` and its primitive issued alone; the arithmetic of the
scan; the run of a `modexp` in which no fault fires. -/

namespace Sys2Proof.Machine

/-! ## One micro-op of `modexp` -/

/-- The one stage of `modexp`: the exponentiation, with no `STATE` of its own and no compare (R191, R192). -/
def modexpStage (rd ra rb rm : Reg) : Stage := ⟨none, .exp rd ra rb rm, false⟩

theorem locate_modexp (rd ra rb rm : Reg) {k n : Nat} (h : n < expLength k) :
    locate k (stages (.modexp rd ra rb rm k)) n = some (modexpStage rd ra rb rm, n) := if_pos h

/-- After a micro-op of `modexp` the position alone moves: there is none after an error or the last micro-op, else it
is the next one (R191, R197). -/
theorem afterMicroOp_modexp (u : State) (rd ra rb rm : Reg) (k n : Nat) :
    u.afterMicroOp ⟨.modexp rd ra rb rm k, n⟩ (modexpStage rd ra rb rm) n =
      { u with running :=
          if u.running = none ∨ n = 2 * k then none else some ⟨.modexp rd ra rb rm k, n + 1⟩ } := by
  have last : n + 1 = MacroContext.total (.modexp rd ra rb rm k) ↔ n = 2 * k := by
    rw [total_eq_cyclesOf, cyclesOf]
    omega
  rcases afterMicroOp_cases u ⟨.modexp rd ra rb rm k, n⟩ (modexpStage rd ra rb rm) n with
    ⟨stopped, e⟩ | ⟨-, compares, -⟩ | ⟨-, ended, e⟩ | ⟨goesOn, more, e⟩
  · rw [e, if_pos (.inl stopped), ← stopped]
  · cases compares
  · rw [e, if_pos (.inr (last.mp ended))]
    rfl
  · rw [e, if_neg (not_or_intro goesOn (more ∘ last.mpr))]
    rfl

/-- The engine step of a running `modexp` leaves what the micro-op's primitive leaves, but for the position (R13,
R130, R192). -/
theorem engineStep_modexp {s u : State} {rd ra rb rm : Reg} {k n : Nat}
    (hr : s.running = some ⟨.modexp rd ra rb rm k, n⟩) (inside : n < expLength k)
    (run : exec (expMicroOp rd ra rb rm k n s) s = .next u) :
    engineStep s = .next { u with running :=
      if u.running = none ∨ n = 2 * k then none else some ⟨.modexp rd ra rb rm k, n + 1⟩ } := by
  rw [engineStep_of_micro hr (locate_modexp rd ra rb rm inside) rfl run, afterMicroOp_modexp]

/-- Settles O19: the listed micro-op is the model's, and the step moves the position alone beside it. -/
theorem modexpRunsItsExpansion : Obligations.ModexpRunsItsExpansion := by
  intro s rd ra rb rm k n i hr nothing listed
  obtain ⟨inside, rfl⟩ := expMicroOp_of_listing listed
  obtain ⟨l, toEngine⟩ := step_of_acceptsNothing nothing
  obtain ⟨u, run⟩ := exec_next (expMicroOp rd ra rb rm k n s) s
  have ran := engineStep_modexp (s := s.setPending l) hr inside (exec_setPending run l)
  exact ⟨u, _, run, toEngine.trans ran, fun _ => rfl, rfl, rfl, ⟨rfl, rfl, rfl, rfl⟩, ⟨rfl, rfl, rfl, rfl, rfl⟩,
    ⟨rfl, rfl⟩, ⟨rfl, rfl, rfl⟩, rfl, rfl⟩

/-! ## The arithmetic of the scan -/

/-- The accumulator of an exponentiation after micro-op number `off` (R192), for base `a`, exponent `e`, modulus `m`
and scan width `k`. -/
def expAccumulator (a e m k : Nat) : (off : Nat) → Nat
  | 0 => 1
  | off + 1 =>
    if (off + 1) % 2 = 1 then mulMod (expAccumulator a e m k off) (expAccumulator a e m k off) m
    else mulMod (expAccumulator a e m k off) (if e.testBit (loopIndex k (off + 1)) then a else 1) m

/-- One round squares, and multiplies by the base where the exponent bit is set (R192). -/
theorem expAccumulator_round (a e m k j : Nat) :
    expAccumulator a e m k (2 * (j + 1)) ≡
      expAccumulator a e m k (2 * j) ^ 2 * a ^ (e.testBit (k - 1 - j)).toNat [MOD m] := by
  have index : loopIndex k (2 * j + 1 + 1) = k - 1 - j := by
    unfold loopIndex
    omega
  have squared : expAccumulator a e m k (2 * j + 1) ≡ expAccumulator a e m k (2 * j) ^ 2 [MOD m] := by
    rw [expAccumulator, if_pos (by omega), sq]
    exact Nat.mod_modEq _ _
  have factor : (if e.testBit (k - 1 - j) then a else 1) = a ^ (e.testBit (k - 1 - j)).toNat := by
    cases e.testBit (k - 1 - j) <;> simp
  rw [show 2 * (j + 1) = 2 * j + 1 + 1 by omega, expAccumulator, if_neg (by omega), index, factor]
  exact (Nat.mod_modEq _ _).trans (squared.mul_right _)

/-- The leading bits of an exponent, one bit more of them. -/
theorem leading_bits_succ (e : Nat) {k j : Nat} (h : j < k) :
    e / 2 ^ (k - (j + 1)) % 2 ^ (j + 1) =
      e / 2 ^ (k - j) % 2 ^ j * 2 + (e.testBit (k - 1 - j)).toNat := by
  have shift : e / 2 ^ (k - j) = e / 2 ^ (k - (j + 1)) / 2 := by
    rw [Nat.div_div_eq_div_mul, ← pow_succ, show k - (j + 1) + 1 = k - j by omega]
  rw [shift, Nat.toNat_testBit, show k - 1 - j = k - (j + 1) by omega, pow_succ', Nat.mod_mul, Nat.add_comm,
    Nat.mul_comm 2]

/-- After `j` rounds the accumulator is congruent to the power by the exponent's `j` leading bits. -/
theorem expAccumulator_modEq (a e m : Nat) {k j : Nat} (h : j ≤ k) :
    expAccumulator a e m k (2 * j) ≡ a ^ (e / 2 ^ (k - j) % 2 ^ j) [MOD m] := by
  induction j with
  | zero => simp [expAccumulator, Nat.mod_one, Nat.ModEq.refl]
  | succ j ih =>
    calc expAccumulator a e m k (2 * (j + 1))
        ≡ expAccumulator a e m k (2 * j) ^ 2 * a ^ (e.testBit (k - 1 - j)).toNat [MOD m] :=
          expAccumulator_round a e m k j
      _ ≡ (a ^ (e / 2 ^ (k - j) % 2 ^ j)) ^ 2 * a ^ (e.testBit (k - 1 - j)).toNat [MOD m] :=
          ((ih (Nat.le_of_succ_le h)).pow 2).mul_right _
      _ = a ^ (e / 2 ^ (k - (j + 1)) % 2 ^ (j + 1)) := by
          rw [leading_bits_succ e h, pow_add, pow_mul]

/-- From the first squaring on the accumulator is reduced. -/
theorem expAccumulator_succ_mod (a e m k off : Nat) :
    expAccumulator a e m k (off + 1) % m = expAccumulator a e m k (off + 1) := by
  rw [expAccumulator]
  split <;> exact Nat.mod_mod _ _

/-- The whole scan computes the power (R194). -/
theorem expAccumulator_eq_pow (a e m : Nat) {k : Nat} (h : 0 < k) :
    expAccumulator a e m k (2 * k) = a ^ (e % 2 ^ k) % m := by
  have congruent := expAccumulator_modEq a e m (Nat.le_refl k)
  have reduced := expAccumulator_succ_mod a e m k (2 * k - 1)
  rw [Nat.sub_self, pow_zero, Nat.div_one] at congruent
  rw [Nat.sub_add_cancel (by omega)] at reduced
  exact reduced.symm.trans congruent

/-! ## Cycles without a fault -/

/-- Where no fault fires within the next cycle, none is due (R135). -/
theorem NoFaultWithin.not_due {s : State} {n : Nat} (h : NoFaultWithin s n) (hn : 0 < n) : ¬ FaultDue s := by
  rintro ⟨enabled, reached, fresh, -⟩
  rcases h with disabled | fired | away
  · exact enabled disabled
  · rw [fresh] at fired
    cases fired
  · exact away 1 Nat.one_pos hn reached

/-- `n` cycles later, no fault fires within what is left of the cycles. -/
theorem NoFaultWithin.later {s t : State} {n m : Nat} (h : NoFaultWithin s (n + m))
    (clock : t.clock = s.clock + BitVec.ofNat 64 n) (config : SameConfig s t) (fault : SameFaultRecord s t) :
    NoFaultWithin t m := by
  obtain ⟨cycle, -⟩ := config
  obtain ⟨guard, -⟩ := fault
  rcases h with disabled | fired | away
  · exact .inl (cycle.trans disabled)
  · exact .inr (.inl (guard.trans fired))
  · refine .inr (.inr fun j positive inside => ?_)
    rw [clock, cycle, BitVec.add_assoc, ← BitVec.ofNat_add]
    exact away (n + j) (by omega) (by omega)

/-! ## An exponentiation under way -/

/-- What R194 asks of the operands of an exponentiation. -/
structure ExpOperands (s : State) (rd ra rb rm : Reg) : Prop where
  one : s.val Reg.ONE = 1
  modulus : 0 < s.val rm
  base_ne : rd ≠ ra
  exponent_ne : rd ≠ rb
  modulus_ne : rd ≠ rm
  one_ne : rd ≠ Reg.ONE

/-- `t` is what `n` micro-ops of an exponentiation begun in `s` have left, no fault among them. -/
structure ExpProgress (s : State) (rd ra rb rm : Reg) (k n : Nat) (t : State) : Prop where
  accumulator : ∀ off, n = off + 1 → t.val rd = expAccumulator (s.val ra) (s.val rb) (s.val rm) k off
  others : ∀ x : Reg, x ≠ rd → t.reg x = s.reg x
  clock : t.clock = s.clock + BitVec.ofNat 64 n
  config : SameConfig s t
  errors : SameErrors s t
  fault : SameFaultRecord s t
  nonInv : t.nonInv = s.nonInv

theorem ExpProgress.start (s : State) (rd ra rb rm : Reg) (k : Nat) : ExpProgress s rd ra rb rm k 0 s :=
  ⟨nofun, fun _ _ => rfl, (BitVec.add_zero s.clock).symm, ⟨rfl, rfl, rfl, rfl⟩,
    ⟨rfl, rfl, rfl, rfl, rfl⟩, ⟨rfl, rfl⟩, rfl⟩

/-- The sequencer's actions between two micro-ops are out of the exponentiation's sight. -/
theorem ExpProgress.controlMoved {s t t' : State} {rd ra rb rm : Reg} {k n : Nat}
    (h : ExpProgress s rd ra rb rm k n t) (moved : ControlMoved t t') : ExpProgress s rd ra rb rm k n t' where
  accumulator off e := (congrArg BitVec.toNat (moved.regs rd)).trans (h.accumulator off e)
  others x other := (moved.regs x).trans (h.others x other)
  clock := moved.clock.trans h.clock
  config := h.config.trans moved.config
  errors := h.errors.trans moved.errors
  fault := ⟨moved.fault.1.trans h.fault.1, moved.fault.2.trans h.fault.2⟩
  nonInv := moved.nonInv.trans h.nonInv

/-- The operands are read as they stood at the beginning. -/
theorem ExpProgress.val_of_ne {s t : State} {rd ra rb rm : Reg} {k n : Nat} (h : ExpProgress s rd ra rb rm k n t)
    {x : Reg} (other : rd ≠ x) : t.val x = s.val x :=
  congrArg BitVec.toNat (h.others x other.symm)

/-- A completed micro-op is progress, where no fault is due and it writes the next accumulator. -/
theorem ExpProgress.retired {s t u : State} {rd ra rb rm : Reg} {k n v : Nat} (h : ExpProgress s rd ra rb rm k n t)
    (done : Retired t u false rd v) (notDue : ¬ FaultDue t) (nonInv : u.nonInv = t.nonInv)
    (next : v = expAccumulator (s.val ra) (s.val rb) (s.val rm) k n) : ExpProgress s rd ra rb rm k (n + 1) u := by
  obtain ⟨written, guard, place⟩ := done.quiet rfl notDue
  exact {
    accumulator := fun off e => by rw [written, next, Nat.succ.inj e]
    others := fun x other => (done.others x other).trans (h.others x other)
    clock := by rw [done.counted rfl, h.clock, clock_add_succ]
    config := h.config.trans done.config
    errors := h.errors.trans done.errors
    fault := ⟨guard.trans h.fault.1, place.trans h.fault.2⟩
    nonInv := nonInv.trans h.nonInv }

/-- The multiplier is the base or 1, by the exponent bit as it stood at the beginning (R193). -/
theorem ExpProgress.multiplier {s t : State} {rd ra rb rm : Reg} {k n : Nat} (h : ExpProgress s rd ra rb rm k n t)
    (operands : ExpOperands s rd ra rb rm) (i : Nat) :
    t.val (if t.regBit rb i then ra else Reg.ONE) = if (s.val rb).testBit i then s.val ra else 1 := by
  have bit : t.regBit rb i = (s.val rb).testBit i := by
    rw [← h.val_of_ne operands.exponent_ne]
    rfl
  rw [bit]
  split
  · exact h.val_of_ne operands.base_ne
  · rw [h.val_of_ne operands.one_ne, operands.one]

/-- The next micro-op of an exponentiation writes the next accumulator (R192). -/
theorem ExpProgress.exec_next {s t : State} {rd ra rb rm : Reg} {k n : Nat} (h : ExpProgress s rd ra rb rm k n t)
    (operands : ExpOperands s rd ra rb rm) (notDue : ¬ FaultDue t) :
    ∃ u, exec (expMicroOp rd ra rb rm k n t) t = .next u ∧ ExpProgress s rd ra rb rm k (n + 1) u ∧
      SameControl t u := by
  have modulus : t.val rm = s.val rm := h.val_of_ne operands.modulus_ne
  have multiplies (x : Reg)
      (next : mulMod (t.val rd) (t.val x) (s.val rm) = expAccumulator (s.val ra) (s.val rb) (s.val rm) k n) :
      ∃ u, exec (.mulMod false rd rd x rm) t = .next u ∧ ExpProgress s rd ra rb rm k (n + 1) u ∧
        SameControl t u := by
    obtain ⟨-, completes, -⟩ := mulModWritesTheReducedProduct false rd rd x rm t
    obtain ⟨u, run, done, nonInv⟩ := completes (modulus ▸ operands.modulus.ne')
    exact ⟨u, run, h.retired done notDue nonInv (modulus ▸ next), done.control⟩
  cases n with
  | zero =>
    obtain ⟨-, u, run, done, nonInv⟩ := copyWritesTheSource false rd Reg.ONE t
    exact ⟨u, run, h.retired done notDue nonInv ((h.val_of_ne operands.one_ne).trans operands.one), done.control⟩
  | succ off =>
    have accumulator := h.accumulator off rfl
    rw [expMicroOp, if_neg (Nat.succ_ne_zero off)]
    split
    · next odd => exact multiplies rd (by rw [expAccumulator, if_pos odd, accumulator])
    · next even => exact multiplies _ (by rw [expAccumulator, if_neg even, accumulator, h.multiplier operands])

/-! ## The run of a `modexp` -/

/-- A running `modexp`, begun in `s` with the host idle, has completed `n` micro-ops and no fault has fired; after the
last one it has ended (R191). -/
structure ModexpUnderWay (s : State) (rd ra rb rm : Reg) (k n : Nat) (t : State) : Prop where
  progress : ExpProgress s rd ra rb rm k n t
  running : t.running = if n = expLength k then none else some ⟨.modexp rd ra rb rm k, n⟩
  idle : HostIdle t
  phase : t.phase = s.phase

/-- A completed micro-op leads to the next position of the `modexp`, or to its end. -/
theorem ModexpUnderWay.step_of_progress {s t u : State} {rd ra rb rm : Reg} {k n : Nat}
    (h : ModexpUnderWay s rd ra rb rm k n t) (inside : n < expLength k)
    (run : exec (expMicroOp rd ra rb rm k n t) t = .next u) (progress : ExpProgress s rd ra rb rm k (n + 1) u)
    (control : SameControl t u) : ∃ v, step t = .next v ∧ ModexpUnderWay s rd ra rb rm k (n + 1) v := by
  obtain ⟨phase, kept, pending, -⟩ := control
  have running := h.running
  rw [if_neg inside.ne] at running
  have last : n = 2 * k ↔ n + 1 = expLength k := by
    unfold expLength
    omega
  refine ⟨_, (step_of_idle h.idle).trans (engineStep_modexp running inside run),
    progress.controlMoved (.assign u _ _ _ _), ?_, pending.trans h.idle, phase.trans h.phase⟩
  simp [kept, running, last]

/-- While cycles without a fault are left, a `modexp` under way steps to its next position. -/
theorem ModexpUnderWay.step_next {s t : State} {rd ra rb rm : Reg} {k n : Nat}
    (h : ModexpUnderWay s rd ra rb rm k n t) (operands : ExpOperands s rd ra rb rm)
    (quiet : NoFaultWithin s (expLength k)) (inside : n < expLength k) :
    ∃ u, step t = .next u ∧ ModexpUnderWay s rd ra rb rm k (n + 1) u := by
  rw [← Nat.add_sub_cancel' inside.le] at quiet
  have notDue : ¬ FaultDue t :=
    (quiet.later h.progress.clock h.progress.config h.progress.fault).not_due (Nat.sub_pos_of_lt inside)
  obtain ⟨u, run, progress, control⟩ := h.progress.exec_next operands notDue
  exact h.step_of_progress inside run progress control

/-- A `modexp` under way completes its remaining micro-ops. -/
theorem ModexpUnderWay.run_ends {s t : State} {rd ra rb rm : Reg} {k n : Nat}
    (h : ModexpUnderWay s rd ra rb rm k n t) (operands : ExpOperands s rd ra rb rm)
    (quiet : NoFaultWithin s (expLength k)) (m : Nat) (hm : n + m = expLength k) :
    ∃ u, Host.Core.run Sys2Proof.core m t = .next u ∧ ModexpUnderWay s rd ra rb rm k (expLength k) u := by
  induction m generalizing n t with
  | zero => exact ⟨t, rfl, hm ▸ h⟩
  | succ m ih =>
    obtain ⟨u, stepped, next⟩ := h.step_next operands quiet (by omega)
    obtain ⟨v, ran, ended⟩ := ih next (by omega)
    exact ⟨v, (run_succ (M := Sys2Proof.core) stepped m).trans ran, ended⟩

theorem ModexpUnderWay.start {s : State} {rd ra rb rm : Reg} {k : Nat}
    (hr : s.running = some ⟨.modexp rd ra rb rm k, 0⟩) (idle : HostIdle s) : ModexpUnderWay s rd ra rb rm k 0 s := by
  refine ⟨.start s rd ra rb rm k, ?_, idle, rfl⟩
  rw [hr, if_neg (by unfold expLength; omega)]

/-- Settles O20: the last accumulator of the scan is the power. -/
theorem modexpComputesThePower : Obligations.ModexpComputesThePower := by
  intro s rd ra rb rm k hr idle width quiet one modulus base_ne exponent_ne modulus_ne one_ne
  have operands : ExpOperands s rd ra rb rm := ⟨one, modulus, base_ne, exponent_ne, modulus_ne, one_ne⟩
  obtain ⟨t, ran, progress, running, -, phase⟩ :=
    (ModexpUnderWay.start hr idle).run_ends operands quiet (expLength k) (Nat.zero_add _)
  have power : t.val rd = s.val ra ^ (s.val rb % 2 ^ k) % s.val rm :=
    (progress.accumulator (2 * k) (Nat.add_comm 1 _)).trans (expAccumulator_eq_pow _ _ _ width)
  exact ⟨t, ran, power, progress.others, progress.clock, (busy_eq_false_iff t).mpr (running.trans (if_pos rfl)), phase,
    progress.errors, progress.nonInv⟩

/-- The first squaring of a `modexp` whose modulus is 0 takes `MODZERO` and ends it (R197). -/
theorem step_modexp_squaring_modZero {s : State} {rd ra rb rm : Reg} {k : Nat}
    (hr : s.running = some ⟨.modexp rd ra rb rm k, 1⟩) (idle : HostIdle s) (width : 0 < k) (zero : s.val rm = 0) :
    ∃ t, step s = .next t ∧ ErrorTaken s t .modZero (encodeWord (.mulMod false rd rd rd rm)) := by
  obtain ⟨-, -, fails⟩ := mulModWritesTheReducedProduct false rd rd rd rm s
  obtain ⟨u, run, error⟩ := fails zero
  have stopped : u.running = none := (error.halt (.inr rfl)).2
  have stepped := engineStep_modexp hr (by unfold expLength; omega) run
  rw [if_pos (.inl stopped), ← stopped] at stepped
  exact ⟨u, (step_of_idle idle).trans stepped, error⟩

/-- Settles O21: the copy has no modulus to fail on and completes; the squaring fails. -/
theorem modexpHaltsOnModulusZero : Obligations.ModexpHaltsOnModulusZero := by
  intro s rd ra rb rm k hr idle width quiet zero distinct
  obtain ⟨-, u, run, copied, -⟩ := copyWritesTheSource false rd Reg.ONE s
  obtain ⟨-, running, pending, -⟩ := copied.control
  obtain ⟨written, -⟩ := copied.quiet rfl (quiet.not_due Nat.one_pos)
  have stepped := engineStep_modexp hr (by unfold expLength; omega) run
  rw [if_neg (by simp [running, hr, width.ne'])] at stepped
  have zero' : u.val rm = 0 := (congrArg BitVec.toNat (copied.others rm distinct.symm)).trans zero
  obtain ⟨t, halted, error⟩ :=
    step_modexp_squaring_modZero (s := { u with running := some ⟨.modexp rd ra rb rm k, 1⟩ }) rfl
      (pending.trans idle) width zero'
  obtain ⟨phase, stopped⟩ := error.halt (.inr rfl)
  have ran : Host.Core.run Sys2Proof.core 2 s = .next t :=
    (run_succ (M := Sys2Proof.core) ((step_of_idle idle).trans stepped) 1).trans
      (run_succ (M := Sys2Proof.core) halted 0)
  obtain ⟨-, -, -, -, info⟩ := copied.errors
  refine ⟨t, ran, phase, (busy_eq_false_iff t).mpr stopped, by simp [error.modZeroBit],
    (error.regs rd).trans (BitVec.eq_of_toNat_eq written),
    fun x other => (error.regs x).trans (copied.others x other), error.clock.trans (copied.counted rfl),
    fun unrecorded => error.first ?_⟩
  exact (congrArg ErrInfo.cause info).trans unrecorded

end Sys2Proof.Machine

/-! PROOFS of the family 42_sign_crt.md. Where the micro-ops of a `sign` stand, what each of them writes and how its
step ends; the run of a whole `sign` in which no fault fires, as a change of register values; the arithmetic of the
recombination. -/

namespace Sys2Proof

/-- The register that a primitive writes; none for a macro, whose issue writes no register. -/
def Instr.dest : Instr → Option Reg
  | .addMod _ rd _ _ _ => some rd
  | .subMod _ rd _ _ _ => some rd
  | .mulMod _ rd _ _ _ => some rd
  | .modCopy _ rd _ _ => some rd
  | .copy _ rd _ => some rd
  | .modInverse _ rd _ _ => some rd
  | .addInverse _ rd _ _ => some rd
  | .loadImmediate _ rd _ => some rd
  | .tick rd => some rd
  | .modexp _ _ _ _ => none
  | .signNoncrt => none
  | .signCrtDirect => none
  | .signCrtShamir => none

end Sys2Proof

namespace Sys2Proof.Machine

/-! ## Positions of a `sign` -/

/-- Stages with their first positions, the first of them at `start`. -/
def stagesFrom (k : Nat) : (start : Nat) → List Stage → List (Nat × Stage)
  | _, [] => []
  | start, g :: rest => (start, g) :: stagesFrom k (start + g.body.length k) rest

/-- No stage begins before the first of them. -/
theorem start_le_of_mem_stagesFrom {k start : Nat} {l : List Stage} {x : Nat × Stage}
    (h : x ∈ stagesFrom k start l) : start ≤ x.1 := by
  induction l generalizing start with
  | nil => cases h
  | cons a rest ih =>
    rcases List.mem_cons.mp h with rfl | behind
    · exact Nat.le_refl _
    · exact Nat.le_trans (Nat.le_add_right _ _) (ih behind)

theorem locate_eq_some_iff_from (k start : Nat) (l : List Stage) (n : Nat) (g : Stage) (off : Nat) :
    locate k l n = some (g, off) ↔
      off < g.body.length k ∧ ∃ b, start + n = b + off ∧ (b, g) ∈ stagesFrom k start l := by
  induction l generalizing start n with
  | nil => simp [locate, stagesFrom]
  | cons a rest ih =>
    constructor
    · intro h
      refine ⟨(locate_spec h).2, ?_⟩
      rcases locate_cons_cases h with ⟨rfl, rfl⟩ | ⟨m, rfl, behind⟩
      · exact ⟨start, rfl, List.mem_cons_self⟩
      · obtain ⟨-, b, position, mem⟩ := (ih (start + a.body.length k) m).mp behind
        exact ⟨b, by omega, List.mem_cons_of_mem _ mem⟩
    · rintro ⟨inside, b, position, mem⟩
      rcases List.mem_cons.mp mem with first | behind
      · cases first
        obtain rfl : n = off := by omega
        exact if_pos inside
      · have after := start_le_of_mem_stagesFrom behind
        obtain ⟨m, rfl⟩ : ∃ m, n = a.body.length k + m := ⟨n - a.body.length k, by omega⟩
        rw [locate_cons_add]
        exact (ih (start + a.body.length k) m).mpr ⟨inside, b, by omega, behind⟩

/-- A position of a macro is its stage's first position and the micro-op's number inside the stage. -/
theorem locate_eq_some_iff {k : Nat} {l : List Stage} {n : Nat} {g : Stage} {off : Nat} :
    locate k l n = some (g, off) ↔ off < g.body.length k ∧ ∃ b, n = b + off ∧ (b, g) ∈ stagesFrom k 0 l := by
  rw [locate_eq_some_iff_from k 0, Nat.zero_add]

theorem stagesFrom_noncrt (k : Nat) :
    stagesFrom k 0 (stages (.sign .noncrt k)) =
      [(0, ⟨some .expBranch1, .exp Reg.C Reg.M Reg.D Reg.N, false⟩)] := rfl

/-- The stages of `crt_direct` at the positions of R225. -/
theorem stagesFrom_crtDirect (k : Nat) :
    stagesFrom k 0 (stages (.sign .crtDirect k)) =
      [(0, ⟨some .loadOperands, .ops prepDirect, false⟩),
       (4, ⟨some .expBranch1, .exp Reg.POW Reg.M Reg.A Reg.P, false⟩),
       (5 + 2 * k, ⟨some .expBranch2, .exp Reg.POW2 Reg.M Reg.B Reg.Q, false⟩),
       (6 + 4 * k, ⟨some .combine, .ops combineOps, false⟩)] := by
  simp [stagesFrom, stages, StageBody.length, expLength, prepDirect]
  omega

/-- The stages of `crt_shamir` at the positions of R225. -/
theorem stagesFrom_crtShamir (k : Nat) :
    stagesFrom k 0 (stages (.sign .crtShamir k)) =
      [(0, ⟨some .loadOperands, .ops prepShamir, false⟩),
       (9, ⟨some .expBranch1, .exp Reg.POW Reg.M Reg.A Reg.X, false⟩),
       (10 + 2 * k, ⟨some .expBranch2, .exp Reg.POW2 Reg.M Reg.B Reg.Y, false⟩),
       (11 + 4 * k, ⟨some .consistencyCheck, .ops checkOps, true⟩),
       (13 + 4 * k, ⟨some .combine, .ops (deriveOps ++ combineOps), false⟩)] := by
  simp [stagesFrom, stages, StageBody.length, expLength, prepShamir, checkOps]
  omega

/-! ## The listings -/

/-- A printed table of words lists the instructions it decodes to. -/
theorem wordListing_iff {words : List InstrWord} {listing : List Instr}
    (spells : words.map (fun w => decode w (Word.ofNat 0)) = listing.map .instr) (off : Nat) (i : Instr) :
    WordListing words off i ↔ listing[off]? = some i := by
  have row := congrArg (·[off]?) spells
  simp only [List.getElem?_map] at row
  rw [WordListing, ← Option.map_eq_some_iff (f := fun w => decode w (Word.ofNat 0)), row]
  simp

/-- The table of words prints the body of a stage. -/
theorem wordListing_iff_microOp {words : List InstrWord} {listing : List Instr}
    (spells : words.map (fun w => decode w (Word.ofNat 0)) = listing.map .instr) (s : State) (k off : Nat) (i : Instr) :
    WordListing words off i ↔
      off < (StageBody.ops listing).length k ∧ (StageBody.ops listing).microOp k off s = some i := by
  rw [wordListing_iff spells]
  exact ⟨fun h => ⟨(List.getElem?_eq_some_iff.mp h).1, h⟩, And.right⟩

/-- R192 prints the body of an exponentiation. -/
theorem expListing_iff_microOp (s : State) (rd ra rb rm : Reg) (k off : Nat) (i : Instr) :
    ExpListing s rd ra rb rm k off i ↔
      off < (StageBody.exp rd ra rb rm).length k ∧ (StageBody.exp rd ra rb rm).microOp k off s = some i := by
  constructor
  · intro h
    obtain ⟨inside, rfl⟩ := expMicroOp_of_listing h
    exact ⟨inside, rfl⟩
  · rintro ⟨inside, micro⟩
    cases micro
    replace inside : off < 1 + 2 * k := inside
    rcases Nat.eq_zero_or_pos off with rfl | later
    · exact .inl ⟨rfl, rfl⟩
    obtain ⟨j, rfl | rfl⟩ : ∃ j, off = 2 * j + 1 ∨ off = 2 * j + 2 := ⟨(off - 1) / 2, by omega⟩
    · have listed : ExpListing s rd ra rb rm k (2 * j + 1) _ := .inr (.inl ⟨j, by omega, rfl, rfl⟩)
      exact (expMicroOp_of_listing listed).2 ▸ listed
    · have listed : ExpListing s rd ra rb rm k (2 * j + 2) _ := .inr (.inr ⟨j, by omega, rfl, rfl⟩)
      exact (expMicroOp_of_listing listed).2 ▸ listed

theorem prepDirectWords_spell : prepDirectWords.map (fun w => decode w (Word.ofNat 0)) = prepDirect.map .instr := rfl
theorem prepShamirWords_spell : prepShamirWords.map (fun w => decode w (Word.ofNat 0)) = prepShamir.map .instr := rfl
theorem checkWords_spell : checkWords.map (fun w => decode w (Word.ofNat 0)) = checkOps.map .instr := rfl
theorem combineWords_spell : combineWords.map (fun w => decode w (Word.ofNat 0)) = combineOps.map .instr := rfl
theorem deriveWords_spell :
    (deriveWords ++ combineWords).map (fun w => decode w (Word.ofNat 0)) = (deriveOps ++ combineOps).map .instr := rfl

/-- A row of the spec's listings is the model's micro-op at that position (R213 to R222, R225). -/
theorem signListing_iff (s : State) (mode : SignMode) (k n off : Nat) (p : Phase) (i : Instr) :
    SignListing s mode k n off p i ↔
      ∃ g, locate k (stages (.sign mode k)) n = some (g, off) ∧ g.enters = some p ∧
        g.body.microOp k off s = some i := by
  have byStage : (∃ g, locate k (stages (.sign mode k)) n = some (g, off) ∧ g.enters = some p ∧
        g.body.microOp k off s = some i) ↔
      ∃ x ∈ stagesFrom k 0 (stages (.sign mode k)), n = x.1 + off ∧ some p = x.2.enters ∧
        off < x.2.body.length k ∧ x.2.body.microOp k off s = some i := by
    simp only [locate_eq_some_iff]
    constructor
    · rintro ⟨g, ⟨inside, b, position, mem⟩, enters, micro⟩
      exact ⟨(b, g), mem, position, enters.symm, inside, micro⟩
    · rintro ⟨⟨b, g⟩, mem, position, enters, inside, micro⟩
      exact ⟨g, ⟨inside, b, position, mem⟩, enters.symm, micro⟩
  rw [byStage]
  cases mode with
  | noncrt => simp [SignListing, stagesFrom_noncrt, expListing_iff_microOp]
  | crtDirect =>
    simp [SignListing, stagesFrom_crtDirect, expListing_iff_microOp, wordListing_iff_microOp prepDirectWords_spell s k,
      wordListing_iff_microOp combineWords_spell s k]
  | crtShamir =>
    simp [SignListing, stagesFrom_crtShamir, expListing_iff_microOp, wordListing_iff_microOp prepShamirWords_spell s k,
      wordListing_iff_microOp checkWords_spell s k, wordListing_iff_microOp deriveWords_spell s k]

/-! ## The step of a listed micro-op -/

/-- The compare stands at the end of micro-op `12 + 4K` of `crt_shamir` (R220, R225). -/
theorem compares_at_end_iff {mode : SignMode} {k n : Nat} {g : Stage} {off : Nat}
    (hl : locate k (stages (.sign mode k)) n = some (g, off)) :
    g.compares = true ∧ off + 1 = g.body.length k ↔ mode = .crtShamir ∧ n = 12 + 4 * k := by
  constructor
  · rintro ⟨compares, last⟩
    obtain ⟨k', context, position⟩ := compare_position (ctx := .sign mode k) hl compares last
    cases context
    exact ⟨rfl, position⟩
  · rintro ⟨rfl, rfl⟩
    cases hl.symm.trans (locate_check k)
    exact ⟨rfl, rfl⟩

/-- How the step of a `sign`'s micro-op ends, after the micro-op has left `u` (R213, R220, R221, R228). -/
theorem afterMicroOp_sign {mode : SignMode} {k n : Nat} {g : Stage} {off : Nat} (u : State)
    (hl : locate k (stages (.sign mode k)) n = some (g, off)) :
    u.afterMicroOp ⟨.sign mode k, n⟩ g off =
      if u.running = none then u
      else if mode = .crtShamir ∧ n = 12 + 4 * k ∧ u.reg Reg.SCRATCH1 ≠ u.reg Reg.SCRATCH2 then u.detectFault
      else if n + 1 = cyclesOf (.sign mode k) then (u.enterPhase .done).stopRunning
      else u.continueAt (.sign mode k) (n + 1) := by
  simp only [State.afterMicroOp, ← total_eq_cyclesOf, ← and_assoc, ← compares_at_end_iff hl, MacroContext.width,
    Bool.and_eq_true, beq_iff_eq, bne_iff_ne]
  rfl

/-- Every ending that `SignStepEnds` names is the sequencer's. -/
theorem afterMicroOp_signStepEnds {mode : SignMode} {k n : Nat} {g : Stage} {off : Nat} (u : State)
    (hl : locate k (stages (.sign mode k)) n = some (g, off)) :
    SignStepEnds mode k n u (u.afterMicroOp ⟨.sign mode k, n⟩ g off) := by
  rw [SignStepEnds, afterMicroOp_sign u hl]
  split
  · next stopped => exact ⟨rfl, stopped, rfl⟩
  split
  · exact ⟨rfl, rfl, rfl⟩
  split <;> exact ⟨rfl, rfl, rfl⟩

/-- The sequencer's actions leave `SIGN_ACTIVE` and `SIGN_MODE` alone. -/
theorem afterMicroOp_signFlags (u : State) (r : Running) (g : Stage) (off : Nat) :
    (u.afterMicroOp r g off).signActive = u.signActive ∧ (u.afterMicroOp r g off).signMode = u.signMode := by
  rcases afterMicroOp_cases u r g off with ⟨-, e⟩ | ⟨-, -, -, -, e⟩ | ⟨-, -, e⟩ | ⟨-, -, e⟩ <;> rw [e]
  · exact ⟨rfl, rfl⟩
  · exact ⟨rfl, rfl⟩
  · cases r.mctx <;> exact ⟨rfl, rfl⟩
  · exact ⟨rfl, rfl⟩

/-- A stage of a `sign` begins with its `STATE` and leaves `STATE` alone after that. -/
theorem enterStage_eq_ite {g : Stage} {p : Phase} (s : State) (off : Nat) (enters : g.enters = some p) :
    s.enterStage g off = { s with phase := if off = 0 then p else s.phase } := by
  rw [enterStage_of_some s off enters]
  split <;> rfl

/-- A micro-op depends on the registers alone (R193). -/
theorem microOp_of_sameRegs {s t : State} (same : SameRegs s t) (k off : Nat) (b : StageBody) :
    b.microOp k off t = b.microOp k off s := by
  cases b with
  | ops listing => rfl
  | exp rd ra rb rm =>
    show some (expMicroOp rd ra rb rm k off t) = some (expMicroOp rd ra rb rm k off s)
    unfold expMicroOp State.regBit
    rw [same rb]

/-- Past its first micro-op a stage shows its `STATE` (R223). -/
theorem Consistent.phase_of_later {s : State} {mode : SignMode} {k n off : Nat} {g : Stage} {p : Phase}
    (hs : Consistent s) (hr : s.running = some ⟨.sign mode k, n⟩)
    (hl : locate k (stages (.sign mode k)) n = some (g, off)) (enters : g.enters = some p) (later : off ≠ 0) :
    s.phase = p := by
  obtain ⟨-, -, shows⟩ := (hs.midStep hr hl).shown
  rw [enterStage_eq_ite s off enters, if_neg later, enters] at shows
  exact (Option.some_inj.mp shows).symm

/-- Settles O44: the listed micro-op is the one the sequencer locates, and what surrounds it moves control alone. -/
theorem signRunsItsListings : Obligations.SignRunsItsListings := by
  intro s mode k n hr nothing
  constructor
  · intro inside
    obtain ⟨g, off, hl⟩ := locate_of_lt (total_eq_cyclesOf (.sign mode k) ▸ inside)
    obtain ⟨p, enters, -⟩ := sign_stage_enters (locate_spec hl).1
    obtain ⟨i, micro⟩ := microOp_of_lt s (locate_spec hl).2
    exact ⟨off, p, i, (signListing_iff ..).mpr ⟨g, hl, enters, micro⟩⟩
  · intro off p i listed
    obtain ⟨g, hl, enters, micro⟩ := (signListing_iff ..).mp listed
    obtain ⟨l, toEngine⟩ := step_of_acceptsNothing nothing
    obtain ⟨u, run⟩ := exec_next i { s with phase := if off = 0 then p else s.phase }
    have entered : (s.setPending l).enterStage g off =
        State.setPending { s with phase := if off = 0 then p else s.phase } l :=
      enterStage_eq_ite (s.setPending l) off enters
    have same : SameRegs s ((s.setPending l).enterStage g off) := (enterStage_controlMoved _ g off).regs
    have ran : engineStep (s.setPending l) = .next ((u.setPending l).afterMicroOp ⟨.sign mode k, n⟩ g off) :=
      engineStep_of_micro hr hl ((microOp_of_sameRegs same k off g.body).trans micro)
        (entered ▸ exec_setPending run l)
    have after := afterMicroOp_controlMoved (u.setPending l) ⟨.sign mode k, n⟩ g off
    obtain ⟨active, signMode⟩ := afterMicroOp_signFlags (u.setPending l) ⟨.sign mode k, n⟩ g off
    exact ⟨⟨u, _, run, toEngine.trans ran, after.regs, after.clock, after.nonInv, after.config, after.errors,
      after.fault, active, signMode, afterMicroOp_signStepEnds (u.setPending l) hl⟩,
      fun hs later => hs.phase_of_later hr hl enters later⟩

/-! ## Destinations -/

theorem retire_reg_ne (s : State) (nc : Bool) {rd x : Reg} (v : Word) (other : x ≠ rd) :
    (s.retire nc rd v).reg x = s.reg x := (retire_retired s nc rd v).others x other

theorem modular_reg_ne (s : State) (i : Instr) (nc : Bool) {rd x : Reg} (rm : Reg) (result : Nat → Nat)
    (other : x ≠ rd) : (s.modular i nc rd rm result).reg x = s.reg x := by
  unfold State.modular
  split
  · exact (raiseError_errorTaken s .modZero _).regs x
  · exact retire_reg_ne s nc _ other

/-- An instruction changes no register but its destination, the fault's flip included (R131, R137). -/
theorem exec_reg_of_ne_dest {i : Instr} {s u : State} (run : exec i s = .next u) {x : Reg}
    (other : i.dest ≠ some x) : u.reg x = s.reg x := by
  have ne {rd : Reg} (h : some rd ≠ some x) : x ≠ rd := fun e => h (congrArg some e.symm)
  cases i with
  | addMod | subMod | mulMod | modCopy | addInverse => cases run; exact modular_reg_ne _ _ _ _ _ (ne other)
  | modInverse nc rd ra rm =>
    cases run
    rcases noteInverse_cases s ra rm with ⟨-, e⟩ | ⟨-, -, e⟩ <;> rw [e]
    · exact modular_reg_ne _ _ _ _ _ (ne other)
    · exact modular_reg_ne s.markNonInv _ _ _ _ (ne other)
  | copy | loadImmediate | tick => cases run; exact retire_reg_ne _ _ _ (ne other)
  | modexp | signNoncrt | signCrtDirect | signCrtShamir => cases run; rfl

/-- Every micro-op of an exponentiation writes its accumulator (R192). -/
theorem expMicroOp_dest (rd ra rb rm : Reg) (k off : Nat) (s : State) :
    (expMicroOp rd ra rb rm k off s).dest = some rd := by
  unfold expMicroOp
  split
  · rfl
  · split <;> rfl

/-- No micro-op of the stage writes `x`. -/
def StageBody.Leaves (b : StageBody) (x : Reg) : Prop :=
  ∀ k off s i, b.microOp k off s = some i → i.dest ≠ some x

theorem ops_leaves {listing : List Instr} {x : Reg} (h : ∀ i ∈ listing, i.dest ≠ some x) :
    (StageBody.ops listing).Leaves x := fun _ _ _ i micro => h i (List.mem_of_getElem? micro)

theorem exp_leaves {rd x : Reg} (ra rb rm : Reg) (h : rd ≠ x) : (StageBody.exp rd ra rb rm).Leaves x := by
  rintro k off s i ⟨⟩ written
  rw [expMicroOp_dest] at written
  exact h (Option.some_inj.mp written)

/-- The inputs of a CRT mode (R211), which `SameCrtInputs` names. -/
def crtInputs : List Reg := [Reg.P, Reg.Q, Reg.N, Reg.D, Reg.M, Reg.ONE, Reg.T]

/-- No stage of a CRT mode writes an input (R211). -/
theorem crt_stage_leaves_input {mode : SignMode} {k : Nat} {g : Stage} {x : Reg} (crt : mode ≠ .noncrt)
    (hg : g ∈ stages (.sign mode k)) (input : x ∈ crtInputs) : g.body.Leaves x := by
  have branches : ∀ y ∈ crtInputs, Reg.POW ≠ y ∧ Reg.POW2 ≠ y := by decide
  have listings : ∀ l ∈ [prepDirect, prepShamir, checkOps, combineOps, deriveOps ++ combineOps], ∀ i ∈ l,
      ∀ y ∈ crtInputs, i.dest ≠ some y := by decide
  obtain ⟨notPow, notPow2⟩ := branches x input
  have listed {l : List Instr} (hl : l ∈ [prepDirect, prepShamir, checkOps, combineOps, deriveOps ++ combineOps]) :
      (StageBody.ops l).Leaves x := ops_leaves fun i hi => listings l hl i hi x input
  cases mode with
  | noncrt => exact absurd rfl crt
  | crtDirect =>
    simp only [stages, List.mem_cons, List.not_mem_nil, or_false] at hg
    rcases hg with rfl | rfl | rfl | rfl
    · exact listed (by simp)
    · exact exp_leaves _ _ _ notPow
    · exact exp_leaves _ _ _ notPow2
    · exact listed (by simp)
  | crtShamir =>
    simp only [stages, List.mem_cons, List.not_mem_nil, or_false] at hg
    rcases hg with rfl | rfl | rfl | rfl | rfl
    · exact listed (by simp)
    · exact exp_leaves _ _ _ notPow
    · exact exp_leaves _ _ _ notPow2
    · exact listed (by simp)
    · exact listed (by simp)

/-- A listing that keeps `C` for its last row does not write it before. -/
theorem dest_ne_C_of_not_last {l : List Instr} (h : ∀ i ∈ l.dropLast, i.dest ≠ some Reg.C) {off : Nat} {i : Instr}
    (row : l[off]? = some i) (more : off + 1 ≠ l.length) : i.dest ≠ some Reg.C := by
  have inside : off < l.length := (List.getElem?_eq_some_iff.mp row).1
  refine h i (List.mem_of_getElem? (i := off) ?_)
  rw [List.getElem?_dropLast, if_pos (by omega), row]

/-- A CRT mode writes `C` in its last micro-op only (R211). -/
theorem crt_microOp_dest_ne_C {mode : SignMode} {k n off : Nat} {g : Stage} {s : State} {i : Instr}
    (crt : mode ≠ .noncrt) (hl : locate k (stages (.sign mode k)) n = some (g, off))
    (micro : g.body.microOp k off s = some i) (more : n + 1 ≠ cyclesOf (.sign mode k)) :
    i.dest ≠ some Reg.C := by
  have listings : ∀ l ∈ [prepDirect, prepShamir, checkOps, combineOps.dropLast, (deriveOps ++ combineOps).dropLast],
      ∀ i ∈ l, i.dest ≠ some Reg.C := by decide
  obtain ⟨-, b, rfl, mem⟩ := locate_eq_some_iff.mp hl
  cases mode with
  | noncrt => exact absurd rfl crt
  | crtDirect =>
    simp only [stagesFrom_crtDirect, List.mem_cons, List.not_mem_nil, or_false, Prod.mk.injEq] at mem
    rcases mem with ⟨rfl, rfl⟩ | ⟨rfl, rfl⟩ | ⟨rfl, rfl⟩ | ⟨rfl, rfl⟩
    · exact ops_leaves (listings _ (by simp)) _ _ _ _ micro
    · exact exp_leaves _ _ _ (by decide) _ _ _ _ micro
    · exact exp_leaves _ _ _ (by decide) _ _ _ _ micro
    · refine dest_ne_C_of_not_last (listings _ (by simp)) micro fun last => more ?_
      simp only [cyclesOf, combineOps, List.length_cons, List.length_nil] at last ⊢
      omega
  | crtShamir =>
    simp only [stagesFrom_crtShamir, List.mem_cons, List.not_mem_nil, or_false, Prod.mk.injEq] at mem
    rcases mem with ⟨rfl, rfl⟩ | ⟨rfl, rfl⟩ | ⟨rfl, rfl⟩ | ⟨rfl, rfl⟩ | ⟨rfl, rfl⟩
    · exact ops_leaves (listings _ (by simp)) _ _ _ _ micro
    · exact exp_leaves _ _ _ (by decide) _ _ _ _ micro
    · exact exp_leaves _ _ _ (by decide) _ _ _ _ micro
    · exact ops_leaves (listings _ (by simp)) _ _ _ _ micro
    · refine dest_ne_C_of_not_last (listings _ (by simp)) micro fun last => more ?_
      simp only [cyclesOf, deriveOps, combineOps, List.length_append, List.length_cons, List.length_nil] at last ⊢
      omega

/-- Settles O45: the step changes no register but the destination of its micro-op. -/
theorem signWritesOnlyItsRegisters : Obligations.SignWritesOnlyItsRegisters := by
  intro s t mode k n hr nothing h
  obtain ⟨l, toEngine⟩ := step_of_acceptsNothing nothing
  rcases engineStep_cases (toEngine ▸ h) with ⟨stopped, -⟩ | ⟨r, g, off, i, u, hr', hl, micro, -, run, rfl⟩
  · exact absurd (hr.symm.trans stopped) (by simp)
  obtain rfl : ⟨.sign mode k, n⟩ = r := Option.some_inj.mp (hr.symm.trans hr')
  have mem : g ∈ stages (.sign mode k) := (locate_spec hl).1
  have kept {x : Reg} (other : i.dest ≠ some x) : (u.afterMicroOp ⟨.sign mode k, n⟩ g off).reg x = s.reg x :=
    ((afterMicroOp_controlMoved u _ g off).regs x).trans
      ((exec_reg_of_ne_dest run other).trans ((enterStage_controlMoved _ g off).regs x))
  refine ⟨?_, fun crt => ⟨fun x input => ?_, fun more => ?_⟩⟩
  · rintro rfl x other
    rw [noncrt_stage_body mem] at micro
    exact kept (exp_leaves _ _ _ other.symm _ _ _ _ micro)
  · exact kept (crt_stage_leaves_input crt mem input _ _ _ _ micro)
  · exact kept (crt_microOp_dest_ne_C crt hl micro more)

/-! ## Micro-ops as changes of register values -/

/-- Over the register values `m` the micro-op `i` completes with `v` written to `rd`, and sets no flag (R140 to R145):
its modulus is not 0, and a `mod_inverse` has its inverse. -/
inductive Writes (m : Reg → Nat) : Instr → Reg → Nat → Prop where
  | copy {rd ra : Reg} {v : Nat} (value : m ra = v) : Writes m (.copy false rd ra) rd v
  | modCopy {rd ra rm : Reg} {v : Nat} (nonzero : m rm ≠ 0) (value : m ra % m rm = v) :
      Writes m (.modCopy false rd ra rm) rd v
  | addMod {rd ra rb rm : Reg} {v : Nat} (nonzero : m rm ≠ 0) (value : addMod (m ra) (m rb) (m rm) = v) :
      Writes m (.addMod false rd ra rb rm) rd v
  | subMod {rd ra rb rm : Reg} {v : Nat} (nonzero : m rm ≠ 0) (value : subMod (m ra) (m rb) (m rm) = v) :
      Writes m (.subMod false rd ra rb rm) rd v
  | mulMod {rd ra rb rm : Reg} {v : Nat} (nonzero : m rm ≠ 0) (value : mulMod (m ra) (m rb) (m rm) = v) :
      Writes m (.mulMod false rd ra rb rm) rd v
  | modInverse {rd ra rm : Reg} {v : Nat} (nonzero : m rm ≠ 0) (inverts : invertible (m ra) (m rm) = true)
      (value : modInverse (m ra) (m rm) = v) : Writes m (.modInverse false rd ra rm) rd v

/-- The micro-op retires with the value that `Writes` names. -/
theorem Writes.exec {s : State} {i : Instr} {rd : Reg} {v : Nat} (h : Writes s.val i rd v) :
    ∃ u, exec i s = .next u ∧ Retired s u false rd v ∧ u.nonInv = s.nonInv := by
  cases h with
  | copy value => exact value ▸ (copyWritesTheSource ..).2
  | modCopy nonzero value => exact value ▸ (exec_modular (fun _ => modCopy_lt _) rfl).1 nonzero
  | addMod nonzero value => exact value ▸ (exec_modular (fun _ => addMod_lt _ _) rfl).1 nonzero
  | subMod nonzero value => exact value ▸ (exec_modular (fun _ => subMod_lt _ _) rfl).1 nonzero
  | mulMod nonzero value => exact value ▸ (exec_modular (fun _ => mulMod_lt _ _) rfl).1 nonzero
  | modInverse nonzero inverts value =>
    exact value ▸ (exec_modular (fun _ => modInverse_lt _) (exec_modInverse_of_noted _ _ (.inr inverts))).1 nonzero

/-- Where no fault is due, a completed primitive changes the register values at its destination alone. -/
theorem Retired.val_eq_update {s t : State} {rd : Reg} {v : Nat} (h : Retired s t false rd v) (notDue : ¬ FaultDue s) :
    t.val = Function.update s.val rd v := by
  funext x
  by_cases same : x = rd
  · subst same
    rw [Function.update_self, (h.quiet rfl notDue).1]
  · rw [Function.update_of_ne same]
    exact congrArg BitVec.toNat (h.others x same)

/-- From number `off` on, the micro-ops of a stage take the register values `m` to `m'`. -/
inductive StageRun (k : Nat) (b : StageBody) : (off : Nat) → (m m' : Reg → Nat) → Prop where
  | done {off : Nat} {m : Reg → Nat} (ended : off = b.length k) : StageRun k b off m m
  | step {off : Nat} {m m' : Reg → Nat} {rd : Reg} {v : Nat} (inside : off < b.length k)
      (micro : ∀ s : State, s.val = m → ∃ i, b.microOp k off s = some i ∧ Writes m i rd v)
      (rest : StageRun k b (off + 1) (Function.update m rd v) m') : StageRun k b off m m'

/-- From position `n` on, the micro-ops of a `sign` take the register values `m` to `m'`, and its check finds equal
residues. -/
inductive SignRun (mode : SignMode) (k : Nat) : (n : Nat) → (m m' : Reg → Nat) → Prop where
  | done (m : Reg → Nat) : SignRun mode k (cyclesOf (.sign mode k)) m m
  | step {n off : Nat} {g : Stage} {m m' : Reg → Nat} {rd : Reg} {v : Nat}
      (located : locate k (stages (.sign mode k)) n = some (g, off))
      (micro : ∀ s : State, s.val = m → ∃ i, g.body.microOp k off s = some i ∧ Writes m i rd v)
      (agree : g.compares = true → off + 1 = g.body.length k →
        Function.update m rd v Reg.SCRATCH1 = Function.update m rd v Reg.SCRATCH2)
      (rest : SignRun mode k (n + 1) (Function.update m rd v) m') : SignRun mode k n m m'

/-- At the end of its stage a run changes nothing more. -/
theorem StageRun.eq_of_ended {k off : Nat} {b : StageBody} {m m' : Reg → Nat} (h : StageRun k b off m m')
    (ended : off = b.length k) : m' = m := by
  cases h with
  | done => rfl
  | step inside => exact absurd ended inside.ne

/-- The rest of a stage's run, in front of what follows it in the `sign`. -/
theorem StageRun.signRun_from {mode : SignMode} {k start next off : Nat} {g : Stage} {m m₁ m' : Reg → Nat}
    (h : StageRun k g.body off m m₁) (mem : (start, g) ∈ stagesFrom k 0 (stages (.sign mode k)))
    (position : next = start + g.body.length k)
    (agree : g.compares = true → m₁ Reg.SCRATCH1 = m₁ Reg.SCRATCH2) (rest : SignRun mode k next m₁ m') :
    SignRun mode k (start + off) m m' := by
  induction h with
  | done ended => exact ended ▸ position ▸ rest
  | step inside micro later ih =>
    refine .step (locate_eq_some_iff.mpr ⟨inside, start, rfl, mem⟩) micro (fun compares last => ?_) (ih agree rest)
    exact later.eq_of_ended last ▸ agree compares

/-- A stage's run, in front of what follows it in the `sign`. -/
theorem StageRun.signRun {mode : SignMode} {k start next : Nat} {g : Stage} {m m₁ m' : Reg → Nat}
    (h : StageRun k g.body 0 m m₁) (mem : (start, g) ∈ stagesFrom k 0 (stages (.sign mode k)))
    (position : next = start + g.body.length k)
    (agree : g.compares = true → m₁ Reg.SCRATCH1 = m₁ Reg.SCRATCH2) (rest : SignRun mode k next m₁ m') :
    SignRun mode k start m m' := h.signRun_from mem position agree rest

/-! ## The run of a `sign` -/

/-- A found position lies inside the macro. -/
theorem lt_sum_of_locate {k : Nat} {l : List Stage} {n : Nat} {g : Stage} {off : Nat}
    (h : locate k l n = some (g, off)) : n < (l.map (fun g => g.body.length k)).sum := by
  induction l generalizing n with
  | nil => cases h
  | cons a rest ih =>
    rw [List.map_cons, List.sum_cons]
    rcases locate_cons_cases h with ⟨rfl, rfl⟩ | ⟨m, rfl, behind⟩
    · exact Nat.lt_add_right _ (locate_spec h).2
    · exact Nat.add_lt_add_left (ih behind) _

theorem lt_cyclesOf_of_locate {mode : SignMode} {k n off : Nat} {g : Stage}
    (h : locate k (stages (.sign mode k)) n = some (g, off)) : n < cyclesOf (.sign mode k) :=
  total_eq_cyclesOf (.sign mode k) ▸ lt_sum_of_locate h

/-- With no error and no mismatch, a micro-op of a `sign` is followed by the next one or by DONE. -/
theorem afterMicroOp_sign_of_agree {u : State} {mode : SignMode} {k n : Nat} {g : Stage} {off : Nat}
    (goesOn : u.running ≠ none)
    (agree : g.compares = true → off + 1 = g.body.length k → u.reg Reg.SCRATCH1 = u.reg Reg.SCRATCH2) :
    u.afterMicroOp ⟨.sign mode k, n⟩ g off =
      { u with
        phase := if n + 1 = cyclesOf (.sign mode k) then .done else u.phase
        running := if n + 1 = cyclesOf (.sign mode k) then none else some ⟨.sign mode k, n + 1⟩ } := by
  rw [← total_eq_cyclesOf]
  rcases afterMicroOp_cases u ⟨.sign mode k, n⟩ g off with
    ⟨stopped, -⟩ | ⟨-, compares, last, differ, -⟩ | ⟨-, ended, e⟩ | ⟨-, more, e⟩
  · exact absurd stopped goesOn
  · exact absurd (agree compares last) differ
  · rw [e, if_pos ended, if_pos ended]
    rfl
  · rw [e, if_neg more, if_neg more]
    rfl

/-- A `sign` begun in `s` with the host idle has completed `n` micro-ops, which no fault and no flag met, and holds the
register values `m`; after the last one it is DONE (R213, R214, R218). -/
structure SignUnderWay (s : State) (mode : SignMode) (k n : Nat) (m : Reg → Nat) (t : State) : Prop where
  running : t.running = if n = cyclesOf (.sign mode k) then none else some ⟨.sign mode k, n⟩
  phase : n = cyclesOf (.sign mode k) → t.phase = .done
  idle : HostIdle t
  clock : t.clock = s.clock + BitVec.ofNat 64 n
  config : SameConfig s t
  fault : SameFaultRecord s t
  detected : t.faultDetected = s.faultDetected
  nonInv : t.nonInv = s.nonInv
  vals : t.val = m

/-- While cycles without a fault are left, a `sign` under way steps to its next position. -/
theorem SignUnderWay.step_next {s t : State} {mode : SignMode} {k n off : Nat} {g : Stage} {m : Reg → Nat} {rd : Reg}
    {v : Nat} (h : SignUnderWay s mode k n m t) (quiet : NoFaultWithin s (cyclesOf (.sign mode k)))
    (located : locate k (stages (.sign mode k)) n = some (g, off))
    (micro : ∀ s : State, s.val = m → ∃ i, g.body.microOp k off s = some i ∧ Writes m i rd v)
    (agree : g.compares = true → off + 1 = g.body.length k →
      Function.update m rd v Reg.SCRATCH1 = Function.update m rd v Reg.SCRATCH2) :
    ∃ w, step t = .next w ∧ SignUnderWay s mode k (n + 1) (Function.update m rd v) w := by
  have inside := lt_cyclesOf_of_locate located
  have running := h.running
  rw [if_neg inside.ne] at running
  have entered := enterStage_controlMoved t g off
  obtain ⟨p, e⟩ := enterStage_eq t g off
  have vals : (t.enterStage g off).val = m := by rw [e]; exact h.vals
  have notDue : ¬ FaultDue (t.enterStage g off) := by
    rw [← Nat.add_sub_cancel' inside.le] at quiet
    exact (quiet.later (entered.clock.trans h.clock) (h.config.trans entered.config)
      ⟨entered.fault.1.trans h.fault.1, entered.fault.2.trans h.fault.2⟩).not_due (Nat.sub_pos_of_lt inside)
  obtain ⟨i, isMicro, writes⟩ := micro _ vals
  obtain ⟨u, run, retired, nonInv⟩ := (vals.symm ▸ writes).exec
  have written : u.val = Function.update m rd v := vals ▸ retired.val_eq_update notDue
  obtain ⟨phase, kept, pending, -⟩ := retired.control
  have goesOn : u.running ≠ none := by simp [kept, e, running]
  have ends := afterMicroOp_sign_of_agree (mode := mode) (n := n) goesOn fun compares last =>
    BitVec.eq_of_toNat_eq ((congrFun written _).trans ((agree compares last).trans (congrFun written _).symm))
  obtain ⟨-, -, detected⟩ := retired.signing
  obtain ⟨guard, place⟩ := (retired.quiet rfl notDue).2
  refine ⟨_, (step_of_idle h.idle).trans (engineStep_of_micro running located isMicro run), ?_⟩
  rw [ends]
  exact {
    running := rfl
    phase := fun last => if_pos last
    idle := pending.trans ((enterStage_host t g off).1.trans h.idle)
    clock := by rw [retired.counted rfl, entered.clock, h.clock, clock_add_succ]
    config := (h.config.trans entered.config).trans retired.config
    fault := ⟨guard.trans (entered.fault.1.trans h.fault.1), place.trans (entered.fault.2.trans h.fault.2)⟩
    detected := detected.trans ((congrArg State.faultDetected e).trans h.detected)
    nonInv := nonInv.trans (entered.nonInv.trans h.nonInv)
    vals := written }

/-- The machine follows the run of register values to its end. -/
theorem SignRun.run_ends {s t : State} {mode : SignMode} {k n : Nat} {m m' : Reg → Nat} (h : SignRun mode k n m m')
    (way : SignUnderWay s mode k n m t) (quiet : NoFaultWithin s (cyclesOf (.sign mode k))) :
    ∃ u, Host.Core.run Sys2Proof.core (cyclesOf (.sign mode k) - n) t = .next u ∧
      SignUnderWay s mode k (cyclesOf (.sign mode k)) m' u := by
  induction h generalizing t with
  | done m => exact ⟨t, by rw [Nat.sub_self]; rfl, way⟩
  | @step n off g m m' rd v located micro agree rest ih =>
    obtain ⟨w, stepped, next⟩ := way.step_next quiet located micro agree
    obtain ⟨u, ran, ended⟩ := ih next
    have inside := lt_cyclesOf_of_locate located
    rw [show cyclesOf (.sign mode k) - n = cyclesOf (.sign mode k) - (n + 1) + 1 by omega]
    exact ⟨u, (run_succ (M := Sys2Proof.core) stepped _).trans ran, ended⟩

/-- A `sign` with no fault ends DONE with the register values that its micro-ops compute, and no flag set. -/
theorem SignRun.ends_done {s : State} {mode : SignMode} {k : Nat} {m' : Reg → Nat} (h : SignRun mode k 0 s.val m')
    (hr : s.running = some ⟨.sign mode k, 0⟩) (idle : HostIdle s)
    (quiet : NoFaultWithin s (cyclesOf (.sign mode k))) :
    ∃ t, Host.Core.run Sys2Proof.core (cyclesOf (.sign mode k)) s = .next t ∧ t.phase = .done ∧
      t.faultDetected = s.faultDetected ∧ t.nonInv = s.nonInv ∧ t.val = m' := by
  have first : 0 ≠ cyclesOf (.sign mode k) := total_eq_cyclesOf (.sign mode k) ▸ (total_pos _).ne
  have begun : SignUnderWay s mode k 0 s.val s :=
    ⟨by rw [hr, if_neg first], fun last => absurd last first, idle, (BitVec.add_zero s.clock).symm,
      ⟨rfl, rfl, rfl, rfl⟩, ⟨rfl, rfl⟩, rfl, rfl, rfl⟩
  obtain ⟨t, ran, ended⟩ := h.run_ends begun quiet
  exact ⟨t, ran, ended.phase rfl, ended.detected, ended.nonInv, ended.vals⟩

/-! ## The stages as changes of register values -/

section Exponentiation

variable {m : Reg → Nat} {rd ra rb rm : Reg} {k : Nat}
variable (one : m Reg.ONE = 1) (modulus : m rm ≠ 0) (base_ne : ra ≠ rd) (exponent_ne : rb ≠ rd)
  (modulus_ne : rm ≠ rd) (one_ne : Reg.ONE ≠ rd)
include one modulus base_ne exponent_ne modulus_ne one_ne

/-- Past its first micro-op an exponentiation writes the next accumulator (R192, R193). -/
theorem expMicroOp_writes (off : Nat) {s : State}
    (hs : s.val = Function.update m rd (expAccumulator (m ra) (m rb) (m rm) k off)) :
    Writes s.val (expMicroOp rd ra rb rm k (off + 1) s) rd (expAccumulator (m ra) (m rb) (m rm) k (off + 1)) := by
  have kept {x : Reg} (other : x ≠ rd) : s.val x = m x := by rw [hs, Function.update_of_ne other]
  have accumulator : s.val rd = expAccumulator (m ra) (m rb) (m rm) k off := by rw [hs, Function.update_self]
  have nonzero : s.val rm ≠ 0 := kept modulus_ne ▸ modulus
  have bit : s.regBit rb (loopIndex k (off + 1)) = (m rb).testBit (loopIndex k (off + 1)) := by
    rw [← kept exponent_ne]
    rfl
  rw [expMicroOp, if_neg off.succ_ne_zero, expAccumulator]
  split
  · exact .mulMod nonzero (by rw [accumulator, kept modulus_ne])
  · refine .mulMod nonzero ?_
    rw [accumulator, kept modulus_ne, bit]
    split
    · rw [kept base_ne]
    · rw [kept one_ne, one]

/-- The last `j` micro-ops of an exponentiation bring the accumulator to its last value. -/
theorem exp_stageRun_from (j off : Nat) (h : off + 1 + j = expLength k) :
    StageRun k (.exp rd ra rb rm) (off + 1) (Function.update m rd (expAccumulator (m ra) (m rb) (m rm) k off))
      (Function.update m rd (expAccumulator (m ra) (m rb) (m rm) k (2 * k))) := by
  induction j generalizing off with
  | zero =>
    obtain rfl : off = 2 * k := by
      unfold expLength at h
      omega
    exact .done h
  | succ j ih =>
    have inside : off + 1 < expLength k := by omega
    have next := ih (off + 1) (by omega)
    rw [← Function.update_idem (expAccumulator (m ra) (m rb) (m rm) k off)] at next
    exact .step inside (fun s hs => ⟨_, rfl,
      hs ▸ expMicroOp_writes one modulus base_ne exponent_ne modulus_ne one_ne off hs⟩) next

/-- The `1 + 2K` micro-ops of an exponentiation write the power by the exponent's `K` low bits, and nothing else
(R194). -/
theorem exp_stageRun (width : 0 < k) :
    StageRun k (.exp rd ra rb rm) 0 m (Function.update m rd (m ra ^ (m rb % 2 ^ k) % m rm)) := by
  have length : 0 + 1 + 2 * k = expLength k := by rw [expLength, Nat.zero_add]
  have first : 0 < expLength k := by omega
  rw [← expAccumulator_eq_pow _ _ _ width]
  exact .step first (fun s _ => ⟨_, rfl, .copy one⟩)
    (exp_stageRun_from one modulus base_ne exponent_ne modulus_ne one_ne (2 * k) 0 length)

end Exponentiation

/-! ## The listings as changes of register values -/

/-- One row of a listing. -/
theorem StageRun.row {k off : Nat} {l : List Instr} {m m' : Reg → Nat} {i : Instr} {rd : Reg} {v : Nat}
    (listed : l[off]? = some i) (writes : Writes m i rd v)
    (rest : StageRun k (.ops l) (off + 1) (Function.update m rd v) m') : StageRun k (.ops l) off m m' :=
  .step (List.getElem?_eq_some_iff.mp listed).1 (fun _ _ => ⟨i, listed, writes⟩) rest

/-- A prime less one, as the engine computes it (R215). -/
theorem subMod_one {a m : Nat} (pos : 0 < a) (below : a ≤ m) : subMod a 1 m = a - 1 := by
  have e := subMod_cast a 1 (Nat.lt_of_lt_of_le pos below)
  rw [show (a : Int) - (1 : Nat) = ((a - 1 : Nat) : Int) by omega, Int.emod_eq_of_lt (by omega) (by omega)] at e
  exact_mod_cast e

/-- The extended modulus, and the order of its group, are computed exactly (R219). -/
theorem extended_values {p q r : Nat} (hr : 1 < r) (rp : r < p) (rq : r < q) :
    mulMod p r (p * q) = p * r ∧ subMod p 1 (p * q) = p - 1 ∧
      mulMod (p - 1) (r - 1) (p * q) = (p - 1) * (r - 1) :=
  ⟨Nat.mod_eq_of_lt (Nat.mul_lt_mul_of_pos_left rq (by omega)),
    subMod_one (by omega) (Nat.le_mul_of_pos_right p (by omega)),
    Nat.mod_eq_of_lt (Nat.mul_lt_mul_of_lt_of_le (by omega) (by omega) (by omega))⟩

section Listings

variable {m : Reg → Nat} {p q : Nat}

/-- R215: the branch exponents. -/
theorem prepDirect_stageRun (k : Nat) (hp : 1 < p) (hq : 1 < q) (P : m Reg.P = p) (Q : m Reg.Q = q)
    (N : m Reg.N = p * q) (one : m Reg.ONE = 1) :
    ∃ m', StageRun k (.ops prepDirect) 0 m m' ∧ m' Reg.A = m Reg.D % (p - 1) ∧ m' Reg.B = m Reg.D % (q - 1) ∧
      ∀ x ∉ [Reg.SCRATCH1, Reg.A, Reg.B], m' x = m x := by
  have positive : p * q ≠ 0 := by positivity
  have pLess : subMod p 1 (p * q) = p - 1 := subMod_one (by omega) (Nat.le_mul_of_pos_right p (by omega))
  have qLess : subMod q 1 (p * q) = q - 1 := subMod_one (by omega) (Nat.le_mul_of_pos_left q (by omega))
  refine ⟨_,
    .row rfl (.subMod (v := p - 1) (N ▸ positive) (by rw [P, N, one, pLess])) <|
    .row rfl (.modCopy (v := m Reg.D % (p - 1)) (by simp; omega) (by simp (disch := decide))) <|
    .row rfl (.subMod (v := q - 1) (by simp (disch := decide) [N, positive])
      (by simp (disch := decide) [Q, N, one, qLess])) <|
    .row rfl (.modCopy (v := m Reg.D % (q - 1)) (by simp; omega) (by simp (disch := decide))) <|
    .done rfl, by simp (disch := decide), by simp, fun x other => ?_⟩
  simp at other
  simp [other]

/-- R219: the extended moduli, and the branch exponents for them. -/
theorem prepShamir_stageRun (k : Nat) {r : Nat} (hr : 1 < r) (rp : r < p) (rq : r < q) (P : m Reg.P = p)
    (Q : m Reg.Q = q) (N : m Reg.N = p * q) (T : m Reg.T = r) (one : m Reg.ONE = 1) :
    ∃ m', StageRun k (.ops prepShamir) 0 m m' ∧ m' Reg.X = p * r ∧ m' Reg.Y = q * r ∧
      m' Reg.A = m Reg.D % ((p - 1) * (r - 1)) ∧ m' Reg.B = m Reg.D % ((q - 1) * (r - 1)) ∧
      ∀ x ∉ [Reg.X, Reg.Y, Reg.SCRATCH1, Reg.SCRATCH2, Reg.A, Reg.B], m' x = m x := by
  have positive : p * q ≠ 0 := Nat.mul_ne_zero (by omega) (by omega)
  have rLess : subMod r 1 (p * q) = r - 1 :=
    subMod_one (by omega) (rq.le.trans (Nat.le_mul_of_pos_left q (by omega)))
  obtain ⟨pTimes, pLess, pOrder⟩ := extended_values hr rp rq
  obtain ⟨qTimes, qLess, qOrder⟩ := extended_values hr rq rp
  rw [Nat.mul_comm q p] at qTimes qLess qOrder
  have pNonzero : (p - 1) * (r - 1) ≠ 0 := Nat.mul_ne_zero (by omega) (by omega)
  have qNonzero : (q - 1) * (r - 1) ≠ 0 := Nat.mul_ne_zero (by omega) (by omega)
  refine ⟨_,
    .row rfl (.mulMod (v := p * r) (N ▸ positive) (by rw [P, T, N, pTimes])) <|
    .row rfl (.mulMod (v := q * r) (by simp (disch := decide) [N, positive])
      (by simp (disch := decide) [Q, T, N, qTimes])) <|
    .row rfl (.subMod (v := p - 1) (by simp (disch := decide) [N, positive])
      (by simp (disch := decide) [P, N, one, pLess])) <|
    .row rfl (.subMod (v := r - 1) (by simp (disch := decide) [N, positive])
      (by simp (disch := decide) [T, N, one, rLess])) <|
    .row rfl (.mulMod (v := (p - 1) * (r - 1)) (by simp (disch := decide) [N, positive])
      (by simp (disch := decide) [N, pOrder])) <|
    .row rfl (.modCopy (v := m Reg.D % ((p - 1) * (r - 1))) (by rwa [Function.update_self])
      (by simp (disch := decide))) <|
    .row rfl (.subMod (v := q - 1) (by simp (disch := decide) [N, positive])
      (by simp (disch := decide) [Q, N, one, qLess])) <|
    .row rfl (.mulMod (v := (q - 1) * (r - 1)) (by simp (disch := decide) [N, positive])
      (by simp (disch := decide) [N, qOrder])) <|
    .row rfl (.modCopy (v := m Reg.D % ((q - 1) * (r - 1))) (by rwa [Function.update_self])
      (by simp (disch := decide))) <|
    .done rfl, by simp (disch := decide), by simp (disch := decide), by simp (disch := decide), by simp,
    fun x other => ?_⟩
  simp at other
  simp [other]

/-- R220: the residues that are compared. -/
theorem checkOps_stageRun (k : Nat) (T : m Reg.T ≠ 0) :
    ∃ m', StageRun k (.ops checkOps) 0 m m' ∧ m' Reg.SCRATCH1 = m Reg.POW % m Reg.T ∧
      m' Reg.SCRATCH2 = m Reg.POW2 % m Reg.T ∧ ∀ x ∉ [Reg.SCRATCH1, Reg.SCRATCH2], m' x = m x := by
  refine ⟨_,
    .row rfl (.modCopy T rfl) <|
    .row rfl (.modCopy (v := m Reg.POW2 % m Reg.T) (by simpa (disch := decide)) (by simp (disch := decide))) <|
    .done rfl, by simp (disch := decide), by simp, fun x other => ?_⟩
  simp at other
  simp [other]

/-- R216, R217: what the recombination unit writes to `C`, from the branch signatures `a` and `b`. -/
def recombine (p q a b : Nat) : Nat :=
  addMod (mulMod (mulMod b (modInverse p q) (p * q)) p (p * q)) (mulMod (mulMod a (modInverse q p) (p * q)) q (p * q))
    (p * q)

/-- R217, behind a listing `pre`: the recombination. -/
theorem combineOps_stageRun (k : Nat) (pre : List Instr) (hp : 0 < p) (hq : 0 < q)
    (pInverts : invertible p q = true) (qInverts : invertible q p = true) (P : m Reg.P = p) (Q : m Reg.Q = q)
    (N : m Reg.N = p * q) :
    ∃ m', StageRun k (.ops (pre ++ combineOps)) pre.length m m' ∧
      m' Reg.C = recombine p q (m Reg.POW) (m Reg.POW2) ∧
      ∀ x ∉ [Reg.X, Reg.Y, Reg.SCRATCH1, Reg.SCRATCH2, Reg.C], m' x = m x := by
  have positive : p * q ≠ 0 := by positivity
  have row (j : Nat) : (pre ++ combineOps)[pre.length + j]? = combineOps[j]? := by
    rw [List.getElem?_append_right (Nat.le_add_right _ _), Nat.add_sub_cancel_left]
  refine ⟨_,
    .row (row 0) (.modInverse (v := modInverse p q) (by omega) (by rwa [P, Q]) (by rw [P, Q])) <|
    .row (row 1) (.modInverse (v := modInverse q p) (by simp (disch := decide) [P]; omega)
      (by simpa (disch := decide) [P, Q]) (by simp (disch := decide) [P, Q])) <|
    .row (row 2) (.mulMod (v := mulMod (m Reg.POW2) (modInverse p q) (p * q)) (by simp (disch := decide) [N, positive])
      (by simp (disch := decide) [N])) <|
    .row (row 3) (.mulMod (v := mulMod (mulMod (m Reg.POW2) (modInverse p q) (p * q)) p (p * q))
      (by simp (disch := decide) [N, positive]) (by simp (disch := decide) [N, P])) <|
    .row (row 4) (.mulMod (v := mulMod (m Reg.POW) (modInverse q p) (p * q)) (by simp (disch := decide) [N, positive])
      (by simp (disch := decide) [N])) <|
    .row (row 5) (.mulMod (v := mulMod (mulMod (m Reg.POW) (modInverse q p) (p * q)) q (p * q))
      (by simp (disch := decide) [N, positive]) (by simp (disch := decide) [N, Q])) <|
    .row (row 6) (.addMod (v := recombine p q (m Reg.POW) (m Reg.POW2)) (by simp (disch := decide) [N, positive])
      (by simp (disch := decide) [N, recombine])) <|
    .done (by simp [StageBody.length, combineOps]), by simp, fun x other => ?_⟩
  simp at other
  simp [other]

/-- R222 before R217: the branch signatures are reduced and recombined. -/
theorem deriveCombine_stageRun (k : Nat) (hp : 0 < p) (hq : 0 < q) (pInverts : invertible p q = true)
    (qInverts : invertible q p = true) (P : m Reg.P = p) (Q : m Reg.Q = q) (N : m Reg.N = p * q) :
    ∃ m', StageRun k (.ops (deriveOps ++ combineOps)) 0 m m' ∧
      m' Reg.C = recombine p q (m Reg.POW % p) (m Reg.POW2 % q) ∧
      ∀ x ∉ [Reg.POW, Reg.POW2, Reg.X, Reg.Y, Reg.SCRATCH1, Reg.SCRATCH2, Reg.C], m' x = m x := by
  obtain ⟨m', combined, C, others⟩ :=
    combineOps_stageRun (m := Function.update (Function.update m Reg.POW (m Reg.POW % p)) Reg.POW2 (m Reg.POW2 % q))
      k deriveOps hp hq pInverts qInverts (by simp (disch := decide) [P]) (by simp (disch := decide) [Q])
      (by simp (disch := decide) [N])
  refine ⟨m',
    .row rfl (.modCopy (by omega) (by rw [P])) <|
    .row rfl (.modCopy (by simp (disch := decide) [Q]; omega) (by simp (disch := decide) [Q])) combined,
    by simpa (disch := decide) using C, fun x other => ?_⟩
  simp at other
  rw [others x (by simp [other])]
  simp [other]

end Listings

/-! ## The arithmetic of the recombination -/

theorem invertible_of_coprime {a m : Nat} (h : Nat.Coprime a m) : invertible a m = true := by
  rw [invertible_iff, ← Nat.gcd_rec, Nat.gcd_comm]
  exact h

/-- R145 as a congruence. -/
theorem mul_modInverse_modEq {a m : Nat} (hm : 0 < m) (h : Nat.Coprime a m) : a * modInverse a m ≡ 1 [MOD m] :=
  ((Nat.mod_modEq a m).symm.mul_right _).trans (modInverse_mul hm (invertible_of_coprime h))

theorem recombine_lt {p q : Nat} (a b : Nat) (hp : 0 < p) (hq : 0 < q) : recombine p q a b < p * q :=
  addMod_lt _ _ (Nat.mul_pos hp hq)

/-- The recombination without its reductions. -/
theorem recombine_modEq (p q a b : Nat) :
    recombine p q a b ≡ b * modInverse p q * p + a * modInverse q p * q [MOD p * q] := by
  have reduced (x y : Nat) : mulMod x y (p * q) ≡ x * y [MOD p * q] := Nat.mod_modEq _ _
  have product (x y z : Nat) : mulMod (mulMod x y (p * q)) z (p * q) ≡ x * y * z [MOD p * q] :=
    (reduced _ _).trans ((reduced x y).mul_right z)
  exact (Nat.mod_modEq _ _).trans ((product ..).add (product ..))

/-- The recombination has the first branch signature as its residue (R217). -/
theorem recombine_modEq_left {p q : Nat} (a b : Nat) (hp : 0 < p) (coprime : Nat.Coprime p q) :
    recombine p q a b ≡ a [MOD p] := by
  calc recombine p q a b
      ≡ b * modInverse p q * p + a * modInverse q p * q [MOD p] := (recombine_modEq p q a b).of_mul_right q
    _ ≡ 0 + a * modInverse q p * q [MOD p] :=
        (Nat.modEq_zero_iff_dvd.mpr (Nat.dvd_mul_left p _)).add_right _
    _ = a * (q * modInverse q p) := by ring
    _ ≡ a * 1 [MOD p] := (mul_modInverse_modEq hp coprime.symm).mul_left a
    _ = a := Nat.mul_one a

/-- The recombination has the second branch signature as its residue (R217). -/
theorem recombine_modEq_right {p q : Nat} (a b : Nat) (hq : 0 < q) (coprime : Nat.Coprime p q) :
    recombine p q a b ≡ b [MOD q] := by
  have swapped : recombine p q a b = recombine q p b a := by
    simp only [recombine, addMod, Nat.mul_comm p q, Nat.add_comm]
  exact swapped ▸ recombine_modEq_left b a hq coprime.symm

/-! ## The arithmetic of the exponents -/

/-- Fermat: a power to a prime modulus may reduce its exponent modulo any multiple of the group's order, unless the
base vanishes and the reduced exponent does too. -/
theorem pow_mod_modEq {l n : Nat} (a e : Nat) (prime : l.Prime) (order : l - 1 ∣ n)
    (nonzero : l ∣ a → e % n ≠ 0) : a ^ (e % n) ≡ a ^ e [MOD l] := by
  by_cases divides : l ∣ a
  · have reduced : e % n ≠ 0 := nonzero divides
    have whole : e ≠ 0 := fun zero => reduced (by rw [zero, Nat.zero_mod])
    exact (Nat.modEq_zero_iff_dvd.mpr (dvd_pow divides reduced)).trans
      (Nat.modEq_zero_iff_dvd.mpr (dvd_pow divides whole)).symm
  · have coprime : Nat.Coprime a l := ((Nat.Prime.coprime_iff_not_dvd prime).mpr divides).symm
    obtain ⟨c, rfl⟩ := order
    have fermat : a ^ ((l - 1) * c) ≡ 1 [MOD l] := by
      have h := (Nat.ModEq.pow_totient coprime).pow c
      rwa [Nat.totient_prime prime, ← pow_mul, one_pow] at h
    calc a ^ (e % ((l - 1) * c))
        = 1 ^ (e / ((l - 1) * c)) * a ^ (e % ((l - 1) * c)) := by rw [one_pow, Nat.one_mul]
      _ ≡ (a ^ ((l - 1) * c)) ^ (e / ((l - 1) * c)) * a ^ (e % ((l - 1) * c)) [MOD l] :=
          (fermat.symm.pow _).mul_right _
      _ = a ^ e := by rw [← pow_mul, ← pow_add, Nat.div_add_mod]

/-- An exponent with an inverse modulo `n` is no multiple of a proper divisor of `n`. -/
theorem not_dvd_of_inverse {e d n c : Nat} (inverse : e * d % n = 1) (divides : c ∣ n) (proper : 1 < c) :
    ¬ c ∣ d := by
  intro h
  have one : c ∣ e * d % n := (Nat.dvd_mod_iff divides).mpr (h.mul_left e)
  rw [inverse, Nat.dvd_one] at one
  omega

/-- A number below `p * q` is known by its residues. -/
theorem eq_mod_of_modEq {p q c x : Nat} (coprime : Nat.Coprime p q) (below : c < p * q) (left : c ≡ x [MOD p])
    (right : c ≡ x [MOD q]) : c = x % (p * q) :=
  (Nat.mod_eq_of_lt below).symm.trans ((Nat.modEq_and_modEq_iff_modEq_mul coprime).mp ⟨left, right⟩)

/-! ## Whole runs as changes of register values -/

/-- R213: `noncrt` is one exponentiation into `C`. -/
theorem noncrt_signRun {k : Nat} {m : Reg → Nat} (width : 0 < k) (one : m Reg.ONE = 1) (modulus : m Reg.N ≠ 0) :
    SignRun .noncrt k 0 m (Function.update m Reg.C (m Reg.M ^ (m Reg.D % 2 ^ k) % m Reg.N)) :=
  (exp_stageRun one modulus (by decide) (by decide) (by decide) (by decide) width).signRun
    (g := ⟨some .expBranch1, .exp Reg.C Reg.M Reg.D Reg.N, false⟩) (List.mem_singleton.mpr rfl)
    (Nat.zero_add _).symm nofun (.done _)

/-- R214: the stages of `crt_direct`, one behind the other. -/
theorem crtDirect_signRun_of_stages {k : Nat} {m m₁ m₂ m₃ m₄ : Reg → Nat}
    (prep : StageRun k (.ops prepDirect) 0 m m₁) (branchP : StageRun k (.exp Reg.POW Reg.M Reg.A Reg.P) 0 m₁ m₂)
    (branchQ : StageRun k (.exp Reg.POW2 Reg.M Reg.B Reg.Q) 0 m₂ m₃)
    (combine : StageRun k (.ops combineOps) 0 m₃ m₄) :
    SignRun .crtDirect k 0 m m₄ := by
  have atCombine : SignRun .crtDirect k (6 + 4 * k) m₃ m₄ :=
    combine.signRun (g := ⟨some .combine, .ops combineOps, false⟩) (by simp [stagesFrom_crtDirect])
      (by simp only [cyclesOf, StageBody.length, combineOps, List.length_cons, List.length_nil]; omega) nofun (.done _)
  have atBranchQ : SignRun .crtDirect k (5 + 2 * k) m₂ m₄ :=
    branchQ.signRun (g := ⟨some .expBranch2, .exp Reg.POW2 Reg.M Reg.B Reg.Q, false⟩)
      (by simp [stagesFrom_crtDirect]) (by simp only [StageBody.length, expLength]; omega) nofun atCombine
  have atBranchP : SignRun .crtDirect k 4 m₁ m₄ :=
    branchP.signRun (g := ⟨some .expBranch1, .exp Reg.POW Reg.M Reg.A Reg.P, false⟩)
      (by simp [stagesFrom_crtDirect]) (by simp only [StageBody.length, expLength]; omega) nofun atBranchQ
  exact prep.signRun (start := 0) (g := ⟨some .loadOperands, .ops prepDirect, false⟩)
    (by simp [stagesFrom_crtDirect]) rfl nofun atBranchP

/-- R218: the stages of `crt_shamir`, one behind the other; the check finds equal residues. -/
theorem crtShamir_signRun_of_stages {k : Nat} {m m₁ m₂ m₃ m₄ m₅ : Reg → Nat}
    (prep : StageRun k (.ops prepShamir) 0 m m₁) (branchP : StageRun k (.exp Reg.POW Reg.M Reg.A Reg.X) 0 m₁ m₂)
    (branchQ : StageRun k (.exp Reg.POW2 Reg.M Reg.B Reg.Y) 0 m₂ m₃) (check : StageRun k (.ops checkOps) 0 m₃ m₄)
    (agree : m₄ Reg.SCRATCH1 = m₄ Reg.SCRATCH2)
    (combine : StageRun k (.ops (deriveOps ++ combineOps)) 0 m₄ m₅) :
    SignRun .crtShamir k 0 m m₅ := by
  have atCombine : SignRun .crtShamir k (13 + 4 * k) m₄ m₅ :=
    combine.signRun (g := ⟨some .combine, .ops (deriveOps ++ combineOps), false⟩) (by simp [stagesFrom_crtShamir])
      (by simp only [cyclesOf, StageBody.length, deriveOps, combineOps, List.length_append, List.length_cons,
            List.length_nil]
          omega) nofun (.done _)
  have atCheck : SignRun .crtShamir k (11 + 4 * k) m₃ m₅ :=
    check.signRun (g := ⟨some .consistencyCheck, .ops checkOps, true⟩) (by simp [stagesFrom_crtShamir])
      (by simp only [StageBody.length, checkOps, List.length_cons, List.length_nil]; omega) (fun _ => agree) atCombine
  have atBranchQ : SignRun .crtShamir k (10 + 2 * k) m₂ m₅ :=
    branchQ.signRun (g := ⟨some .expBranch2, .exp Reg.POW2 Reg.M Reg.B Reg.Y, false⟩)
      (by simp [stagesFrom_crtShamir]) (by simp only [StageBody.length, expLength]; omega) nofun atCheck
  have atBranchP : SignRun .crtShamir k 9 m₁ m₅ :=
    branchP.signRun (g := ⟨some .expBranch1, .exp Reg.POW Reg.M Reg.A Reg.X, false⟩)
      (by simp [stagesFrom_crtShamir]) (by simp only [StageBody.length, expLength]; omega) nofun atBranchQ
  exact prep.signRun (start := 0) (g := ⟨some .loadOperands, .ops prepShamir, false⟩)
    (by simp [stagesFrom_crtShamir]) rfl nofun atBranchP

section Branches

variable {k p q : Nat} {m : Reg → Nat}

/-- A branch's exponentiation of `M` by an exponent that the scan covers (R216). -/
theorem branch_stageRun {rd rb rm : Reg} {b e n : Nat} (width : 0 < k) (one : m Reg.ONE = 1) (base : m Reg.M = b)
    (exponent : m rb = e) (modulus : m rm = n) (scanned : e < 2 ^ k) (nonzero : n ≠ 0)
    (apart : Reg.M ≠ rd ∧ rb ≠ rd ∧ rm ≠ rd ∧ Reg.ONE ≠ rd) :
    ∃ m', StageRun k (.exp rd Reg.M rb rm) 0 m m' ∧ m' rd = b ^ e % n ∧ ∀ x ≠ rd, m' x = m x := by
  obtain ⟨base_ne, exponent_ne, modulus_ne, one_ne⟩ := apart
  have run := exp_stageRun one (modulus ▸ nonzero) base_ne exponent_ne modulus_ne one_ne width
  rw [base, exponent, modulus, Nat.mod_eq_of_lt scanned] at run
  exact ⟨_, run, Function.update_self .., fun x other => Function.update_of_ne other ..⟩

/-- R214 to R217: the branch signatures, recombined. -/
theorem crtDirect_signRun (width : 0 < k) (hp : p.Prime) (hq : q.Prime) (distinct : p ≠ q) (one : m Reg.ONE = 1)
    (P : m Reg.P = p) (Q : m Reg.Q = q) (N : m Reg.N = p * q) (scannedP : m Reg.D % (p - 1) < 2 ^ k)
    (scannedQ : m Reg.D % (q - 1) < 2 ^ k) :
    ∃ m', SignRun .crtDirect k 0 m m' ∧
      m' Reg.C = recombine p q (m Reg.M ^ (m Reg.D % (p - 1)) % p) (m Reg.M ^ (m Reg.D % (q - 1)) % q) ∧
      ∀ x ∈ crtInputs, m' x = m x := by
  have coprime : Nat.Coprime p q := (Nat.coprime_primes hp hq).mpr distinct
  have apart : ∀ x ∈ crtInputs, x ∉ [Reg.SCRATCH1, Reg.A, Reg.B] ∧ x ≠ Reg.POW ∧ x ≠ Reg.POW2 ∧
      x ∉ [Reg.X, Reg.Y, Reg.SCRATCH1, Reg.SCRATCH2, Reg.C] := by decide
  obtain ⟨m₁, prep, A, B, kept₁⟩ := prepDirect_stageRun k hp.one_lt hq.one_lt P Q N one
  have input₁ {x : Reg} (hx : x ∈ crtInputs) : m₁ x = m x := kept₁ x (apart x hx).1
  obtain ⟨m₂, branchP, signedP, kept₂⟩ :=
    branch_stageRun (rd := Reg.POW) width ((input₁ (by decide)).trans one) (input₁ (by decide)) A
      ((input₁ (by decide)).trans P) scannedP hp.ne_zero (by decide)
  have input₂ {x : Reg} (hx : x ∈ crtInputs) : m₂ x = m x := (kept₂ x (apart x hx).2.1).trans (input₁ hx)
  obtain ⟨m₃, branchQ, signedQ, kept₃⟩ :=
    branch_stageRun (rd := Reg.POW2) width ((input₂ (by decide)).trans one) (input₂ (by decide))
      ((kept₂ Reg.B (by decide)).trans B) ((input₂ (by decide)).trans Q) scannedQ hq.ne_zero (by decide)
  have input₃ {x : Reg} (hx : x ∈ crtInputs) : m₃ x = m x := (kept₃ x (apart x hx).2.2.1).trans (input₂ hx)
  obtain ⟨m₄, combine, C, kept₄⟩ :=
    combineOps_stageRun k [] hp.pos hq.pos (invertible_of_coprime coprime) (invertible_of_coprime coprime.symm)
      ((input₃ (by decide)).trans P) ((input₃ (by decide)).trans Q) ((input₃ (by decide)).trans N)
  rw [kept₃ Reg.POW (by decide), signedP, signedQ] at C
  exact ⟨m₄, crtDirect_signRun_of_stages prep branchP branchQ combine, C,
    fun x hx => (kept₄ x (apart x hx).2.2.2).trans (input₃ hx)⟩

/-- R218 to R222: where the branch signatures agree modulo `T`, they are reduced and recombined. -/
theorem crtShamir_signRun {r : Nat} (width : 0 < k) (hp : p.Prime) (hq : q.Prime) (hr : r.Prime) (distinct : p ≠ q)
    (rp : r < p) (rq : r < q) (one : m Reg.ONE = 1) (P : m Reg.P = p) (Q : m Reg.Q = q) (N : m Reg.N = p * q)
    (T : m Reg.T = r) (scannedP : m Reg.D % ((p - 1) * (r - 1)) < 2 ^ k)
    (scannedQ : m Reg.D % ((q - 1) * (r - 1)) < 2 ^ k)
    (agree : m Reg.M ^ (m Reg.D % ((p - 1) * (r - 1))) % (p * r) % r =
      m Reg.M ^ (m Reg.D % ((q - 1) * (r - 1))) % (q * r) % r) :
    ∃ m', SignRun .crtShamir k 0 m m' ∧
      m' Reg.C = recombine p q (m Reg.M ^ (m Reg.D % ((p - 1) * (r - 1))) % (p * r) % p)
        (m Reg.M ^ (m Reg.D % ((q - 1) * (r - 1))) % (q * r) % q) ∧
      ∀ x ∈ crtInputs, m' x = m x := by
  have coprime : Nat.Coprime p q := (Nat.coprime_primes hp hq).mpr distinct
  have apart : ∀ x ∈ crtInputs, x ∉ [Reg.X, Reg.Y, Reg.SCRATCH1, Reg.SCRATCH2, Reg.A, Reg.B] ∧ x ≠ Reg.POW ∧
      x ≠ Reg.POW2 ∧ x ∉ [Reg.SCRATCH1, Reg.SCRATCH2] ∧
      x ∉ [Reg.POW, Reg.POW2, Reg.X, Reg.Y, Reg.SCRATCH1, Reg.SCRATCH2, Reg.C] := by decide
  obtain ⟨m₁, prep, X, Y, A, B, kept₁⟩ := prepShamir_stageRun k hr.one_lt rp rq P Q N T one
  have input₁ {x : Reg} (hx : x ∈ crtInputs) : m₁ x = m x := kept₁ x (apart x hx).1
  obtain ⟨m₂, branchP, signedP, kept₂⟩ :=
    branch_stageRun (rd := Reg.POW) width ((input₁ (by decide)).trans one) (input₁ (by decide)) A X scannedP
      (Nat.mul_ne_zero hp.ne_zero hr.ne_zero) (by decide)
  have input₂ {x : Reg} (hx : x ∈ crtInputs) : m₂ x = m x := (kept₂ x (apart x hx).2.1).trans (input₁ hx)
  obtain ⟨m₃, branchQ, signedQ, kept₃⟩ :=
    branch_stageRun (rd := Reg.POW2) width ((input₂ (by decide)).trans one) (input₂ (by decide))
      ((kept₂ Reg.B (by decide)).trans B) ((kept₂ Reg.Y (by decide)).trans Y) scannedQ
      (Nat.mul_ne_zero hq.ne_zero hr.ne_zero) (by decide)
  have input₃ {x : Reg} (hx : x ∈ crtInputs) : m₃ x = m x := (kept₃ x (apart x hx).2.2.1).trans (input₂ hx)
  have T₃ : m₃ Reg.T = r := (input₃ (by decide)).trans T
  have POW₃ := (kept₃ Reg.POW (by decide)).trans signedP
  obtain ⟨m₄, check, residueP, residueQ, kept₄⟩ := checkOps_stageRun k (T₃ ▸ hr.ne_zero)
  have input₄ {x : Reg} (hx : x ∈ crtInputs) : m₄ x = m x := (kept₄ x (apart x hx).2.2.2.1).trans (input₃ hx)
  rw [T₃, POW₃, agree] at residueP
  rw [T₃, signedQ] at residueQ
  obtain ⟨m₅, combine, C, kept₅⟩ :=
    deriveCombine_stageRun k hp.pos hq.pos (invertible_of_coprime coprime) (invertible_of_coprime coprime.symm)
      ((input₄ (by decide)).trans P) ((input₄ (by decide)).trans Q) ((input₄ (by decide)).trans N)
  rw [kept₄ Reg.POW (by decide), kept₄ Reg.POW2 (by decide), POW₃, signedQ] at C
  exact ⟨m₅, crtShamir_signRun_of_stages prep branchP branchQ check (residueP.trans residueQ.symm) combine, C,
    fun x hx => (kept₅ x (apart x hx).2.2.2.2).trans (input₄ hx)⟩

end Branches

/-! ## The signatures -/

/-- Equal values are equal registers. -/
theorem reg_eq_of_val_eq {s t : State} {x : Reg} (h : t.val x = s.val x) : t.reg x = s.reg x :=
  BitVec.eq_of_toNat_eq h

/-- Settles O24: the run of `noncrt` is one exponentiation, whose exponent the scan covers. -/
theorem signNoncrtComputesTheSignature : Obligations.SignNoncrtComputesTheSignature := by
  intro s k hr idle width quiet one modulus scanned
  obtain ⟨t, ran, done, -, -, vals⟩ := (noncrt_signRun width one modulus.ne').ends_done hr idle quiet
  rw [Nat.mod_eq_of_lt scanned] at vals
  exact ⟨t, ran, done, by rw [vals, Function.update_self],
    fun x other => reg_eq_of_val_eq (by rw [vals, Function.update_of_ne other])⟩

/-- Settles O25: what `crt_direct` recombines are the branch signatures, which the recombination has as residues. -/
theorem signCrtDirectRecombinesTheBranches : Obligations.SignCrtDirectRecombinesTheBranches := by
  intro s k p q hr idle width quiet one hp hq distinct scannedP scannedQ P Q N
  have coprime : Nat.Coprime p q := (Nat.coprime_primes hp hq).mpr distinct
  obtain ⟨m, run, C, kept⟩ := crtDirect_signRun width hp hq distinct one P Q N scannedP scannedQ
  obtain ⟨t, ran, done, -, nonInv, rfl⟩ := run.ends_done hr idle quiet
  refine ⟨t, ran, done, nonInv, fun x input => reg_eq_of_val_eq (kept x input), ?_⟩
  rw [C]
  exact ⟨recombine_lt _ _ hp.pos hq.pos, (recombine_modEq_left _ _ hp.pos coprime).trans (Nat.mod_modEq _ _),
    (recombine_modEq_right _ _ hq.pos coprime).trans (Nat.mod_modEq _ _)⟩

/-- A branch signature is `M^D` modulo the branch's prime, where `D` has an inverse and `M` is odd beside a prime 2
(R227). -/
theorem branch_signature_modEq {l n e d : Nat} (a : Nat) (prime : l.Prime) (order : l - 1 ∣ n)
    (inverse : e * d % n = 1) (odd : l = 2 → a % 2 = 1) : a ^ (d % (l - 1)) ≡ a ^ d [MOD l] := by
  refine pow_mod_modEq a d prime dvd_rfl fun divides vanishes => ?_
  have large : l ≠ 2 := by
    rintro rfl
    have odd := odd rfl
    omega
  have proper : 1 < l - 1 := by
    have least := prime.two_le
    omega
  exact not_dvd_of_inverse inverse order proper (Nat.dvd_of_mod_eq_zero vanishes)

/-- A signature by `D` verifies with its inverse, modulo a prime of the key (R227). -/
theorem pow_inverse_modEq {l n e d : Nat} (a : Nat) (prime : l.Prime) (order : l - 1 ∣ n) (inverse : e * d % n = 1) :
    (a ^ d) ^ e ≡ a [MOD l] := by
  have h := pow_mod_modEq a (e * d) prime order fun _ => by rw [inverse]; exact one_ne_zero
  rw [inverse, pow_one] at h
  rw [← pow_mul, Nat.mul_comm d e]
  exact h.symm

/-- Settles O26: the branch signatures are `M^D` modulo each prime, and `M^(D * e)` is `M` modulo each. -/
theorem signCrtDirectVerifies : Obligations.SignCrtDirectVerifies := by
  intro s k p q e hr idle width quiet one hp hq distinct odd scannedP scannedQ P Q N below inverse
  have coprime : Nat.Coprime p q := (Nat.coprime_primes hp hq).mpr distinct
  have orderP : p - 1 ∣ (p - 1) * (q - 1) := Nat.dvd_mul_right ..
  have orderQ : q - 1 ∣ (p - 1) * (q - 1) := Nat.dvd_mul_left ..
  obtain ⟨t, ran, done, -, -, reduced, residueP, residueQ⟩ :=
    signCrtDirectRecombinesTheBranches s k p q hr idle width quiet one hp hq distinct scannedP scannedQ P Q N
  have signature : t.val Reg.C = s.val Reg.M ^ s.val Reg.D % (p * q) :=
    eq_mod_of_modEq coprime reduced
      (Nat.ModEq.trans residueP (branch_signature_modEq _ hp orderP inverse (odd ∘ .inl)))
      (Nat.ModEq.trans residueQ (branch_signature_modEq _ hq orderQ inverse (odd ∘ .inr)))
  have verifies : (s.val Reg.M ^ s.val Reg.D) ^ e ≡ s.val Reg.M [MOD p * q] :=
    (Nat.modEq_and_modEq_iff_modEq_mul coprime).mp
      ⟨pow_inverse_modEq _ hp orderP inverse, pow_inverse_modEq _ hq orderQ inverse⟩
  refine ⟨t, ran, done, signature, ?_⟩
  rw [signature, ← Nat.pow_mod]
  exact Eq.trans verifies (Nat.mod_eq_of_lt below)

/-- An extended branch signature (R219) is `M^D` modulo the branch's prime and modulo `T`, where `D` has an
inverse. -/
theorem extended_signature_modEq {l r n e d : Nat} (a : Nat) (prime : l.Prime) (hr : r.Prime) (below : r < l)
    (order : l - 1 ∣ n) (inverse : e * d % n = 1) :
    a ^ (d % ((l - 1) * (r - 1))) % (l * r) ≡ a ^ d [MOD l] ∧
      a ^ (d % ((l - 1) * (r - 1))) % (l * r) ≡ a ^ d [MOD r] := by
  have proper : 1 < l - 1 := by
    have least := hr.two_le
    omega
  have nonzero : d % ((l - 1) * (r - 1)) ≠ 0 := fun vanishes =>
    not_dvd_of_inverse inverse order proper ((Nat.dvd_mul_right ..).trans (Nat.dvd_of_mod_eq_zero vanishes))
  exact ⟨((Nat.mod_modEq _ _).of_mul_right r).trans
      (pow_mod_modEq a d prime (Nat.dvd_mul_right ..) fun _ => nonzero),
    ((Nat.mod_modEq _ _).of_mul_left l).trans (pow_mod_modEq a d hr (Nat.dvd_mul_left ..) fun _ => nonzero)⟩

/-- Settles O27: both extended branch signatures are `M^D` modulo `T`, so the check passes; reduced, they are the
branch signatures of `crt_direct`. -/
theorem signCrtShamirPassesAndRecombines : Obligations.SignCrtShamirPassesAndRecombines := by
  intro s k p q r e hr idle width quiet one hp hq prime distinct rp rq scannedP scannedQ P Q N T inverse
  have coprime : Nat.Coprime p q := (Nat.coprime_primes hp hq).mpr distinct
  have orderP : p - 1 ∣ (p - 1) * (q - 1) := Nat.dvd_mul_right ..
  have orderQ : q - 1 ∣ (p - 1) * (q - 1) := Nat.dvd_mul_left ..
  have large {l : Nat} (below : r < l) : l ≠ 2 := (prime.two_le.trans_lt below).ne'
  obtain ⟨modP, modT⟩ := extended_signature_modEq (s.val Reg.M) hp prime rp orderP inverse
  obtain ⟨modQ, modT'⟩ := extended_signature_modEq (s.val Reg.M) hq prime rq orderQ inverse
  obtain ⟨m, run, C, kept⟩ :=
    crtShamir_signRun width hp hq prime distinct rp rq one P Q N T scannedP scannedQ (modT.trans modT'.symm)
  obtain ⟨t, ran, done, detected, nonInv, rfl⟩ := run.ends_done hr idle quiet
  have reduced : t.val Reg.C < p * q := C ▸ recombine_lt _ _ hp.pos hq.pos
  have residueP : t.val Reg.C ≡ s.val Reg.M ^ s.val Reg.D [MOD p] :=
    C ▸ ((recombine_modEq_left _ _ hp.pos coprime).trans (Nat.mod_modEq _ _)).trans modP
  have residueQ : t.val Reg.C ≡ s.val Reg.M ^ s.val Reg.D [MOD q] :=
    C ▸ ((recombine_modEq_right _ _ hq.pos coprime).trans (Nat.mod_modEq _ _)).trans modQ
  exact ⟨t, ran, done, detected, nonInv, fun x input => reg_eq_of_val_eq (kept x input), reduced,
    residueP.trans (branch_signature_modEq _ hp orderP inverse fun two => absurd two (large rp)).symm,
    residueQ.trans (branch_signature_modEq _ hq orderQ inverse fun two => absurd two (large rq)).symm,
    eq_mod_of_modEq coprime reduced residueP residueQ⟩

end Sys2Proof.Machine

/-! PROOFS of the family 60_exceptions.md. An illegal word halts the engine; every command at the port and every engine
step has an outcome. -/

namespace Sys2Proof.Machine

/-! ## Illegal words -/

theorem acceptIssue_of_illegal {s : State} {w : InstrWord} {imm : Word} (ht : s.phase.terminal = false)
    (hd : decode w imm = .illegal) : acceptIssue w imm s = .next (s.raiseError .illegal w) := by
  simp [acceptIssue, ht, hd]

/-- Each example of R253 fails a check of R106. -/
theorem legalWord_illegal_examples : ∀ w ∈ [0x00000000#32, 0xC0000000#32, 0xB0000003#32, 0x98C00000#32,
    0x10B6F201#32, 0x41730600#32, 0x40735600#32], legalWord w = false := by
  simp only [List.mem_cons, List.not_mem_nil, or_false]
  rintro w (rfl | rfl | rfl | rfl | rfl | rfl | rfl) <;> rfl

/-- Settles O30: the port accepts the word and raises `ILLEGAL` on the state without the command. -/
theorem illegalWordHaltsTheEngine : Obligations.IllegalWordHaltsTheEngine := by
  constructor
  · intro s wait w imm rest hp hb ht hd
    have halted : step s = .next ((s.setPending rest).raiseError .illegal w) :=
      (step_accepts hp (.inl hb)).trans (acceptIssue_of_illegal ht hd)
    exact ⟨_, halted, raiseError_errorTaken (s.setPending rest) .illegal w⟩
  · intro imm w mem
    exact (decode_illegal_iff w imm).mpr (legalWord_illegal_examples w mem)

/-! ## Every step has an outcome -/

/-- An `ISSUE` is a recorded error or an instruction's run, and neither stops the engine (R250). -/
theorem acceptIssue_next (w : InstrWord) (imm : Word) (s : State) : ∃ t, acceptIssue w imm s = .next t := by
  cases terminal : s.phase.terminal with
  | true => exact ⟨_, acceptIssue_of_terminal w imm terminal⟩
  | false =>
    cases decoded : decode w imm with
    | illegal => exact ⟨_, acceptIssue_of_illegal terminal decoded⟩
    | instr i =>
      rw [acceptIssue_of_instr terminal decoded]
      exact exec_next i _

theorem acceptCommand_next (c : HostCommand) (s : State) : ∃ t, acceptCommand c s = .next t := by
  cases c with
  | reset => exact ⟨_, rfl⟩
  | issue w imm => exact acceptIssue_next w imm s
  | csrRead addr => exact ⟨_, rfl⟩
  | csrWrite addr value => exact ⟨_, rfl⟩
  | regRead r => exact ⟨_, rfl⟩

/-- Only a position outside its macro's expansion can stop a step (R130, R250). -/
theorem step_next {s : State} (inside : ∀ r, s.running = some r → r.seq < r.mctx.total) : ∃ t, step s = .next t := by
  cases hp : s.pending with
  | nil =>
    rw [step_of_idle hp]
    exact engineStep_next inside
  | cons c rest =>
    by_cases accepted : s.busy = false ∨ (c.wait = 0 ∧ c.command.held = false)
    · rw [step_accepts hp accepted]
      exact acceptCommand_next ..
    · obtain ⟨busy, waits⟩ : s.busy = true ∧ (c.wait ≠ 0 ∨ c.command.held = true) := by
        simpa [imp_iff_not_or] using accepted
      rw [step_holds hp busy waits]
      exact engineStep_next inside

/-- Settles O43: the invariant keeps a running macro's position inside its expansion. -/
theorem consistentStateAlwaysSteps : Obligations.ConsistentStateAlwaysSteps := fun _ consistent =>
  step_next fun r running => (consistent.running r running).1

end Sys2Proof.Machine

/-! PROOFS of the family 70_reset_and_hazards.md. What a reset leaves, and the timing of a macro, which its data do not
reach. -/

namespace Sys2Proof.Machine

/-! ## Reset -/

/-- Settles O41: the base case of the invariant that every step keeps. -/
theorem resetIsConsistent : Obligations.ResetIsConsistent := reset_consistent

theorem reset_val (r : Reg) : State.reset.val r = 0 := by
  simp only [State.val, State.reg, State.reset, Fin.getElem_fin, Vector.getElem_replicate, Word.ofNat_eq,
    BitVec.toNat_ofNat, Nat.zero_mod]

/-- `RESET` brings every element to its reset value, from any state (R290, R291). -/
theorem resetEngine_atReset (s : State) : AtReset s.resetEngine where
  regs := reset_val
  clock := rfl
  faultCycle := rfl
  faultBranch := rfl
  config := ⟨rfl, rfl⟩
  phase := rfl
  busy := rfl
  flags := ⟨rfl, rfl, rfl⟩
  errors := ⟨rfl, rfl, rfl, rfl⟩
  signing := ⟨rfl, rfl⟩
  faultInfo := rfl
  errInfo := rfl

/-- The engine after reset is as a `RESET` leaves it. -/
theorem reset_atReset : AtReset State.reset := resetEngine_atReset State.reset

theorem AtReset.statusWord {s : State} (h : AtReset s) : s.statusWord = 0#64 := by
  obtain ⟨fired, detected, nonInv⟩ := h.flags
  obtain ⟨illegal, modZero, seq, csr⟩ := h.errors
  obtain ⟨active, mode⟩ := h.signing
  rw [State.statusWord, h.phase, h.busy, fired, detected, nonInv, illegal, modZero, seq, csr, active, mode]
  rfl

theorem AtReset.configWord {s : State} (h : AtReset s) : s.configWord = 0#64 := by
  obtain ⟨bw, xbit⟩ := h.config
  rw [State.configWord, bw, xbit]
  rfl

/-- Every CSR reads 0 after reset, the words of several fields because each field has the code 0 (R292). -/
theorem AtReset.csrValue {s : State} (h : AtReset s) (addr : CsrAddr) : s.csrValue addr = 0#64 := by
  unfold State.csrValue
  split
  · exact h.clock
  · exact h.faultCycle
  · rw [State.faultCtrlWord, h.faultBranch]
    rfl
  · exact h.configWord
  · exact h.statusWord
  · rw [State.faultInfoWord, h.faultInfo]
    rfl
  · rw [errInfoWord_eq, h.errInfo]
    rfl
  · rfl

/-- Settles O37: a `RESET` is never held, and its acceptance keeps the host's lists alone. -/
theorem resetSetsEveryElement : Obligations.ResetSetsEveryElement := by
  refine ⟨reset_atReset, fun _ => AtReset.csrValue, fun s wait rest hp ha => ?_⟩
  have accepted : step s = .next (s.setPending rest).resetEngine :=
    step_accepts hp (ha.imp_right fun arrived => ⟨arrived, rfl⟩)
  exact ⟨_, accepted, resetEngine_atReset _, rfl, rfl⟩

/-! ## The timing of a macro -/

/-- What R302 speaks of: the position of the running macro, and `CLOCK`. -/
def State.timing (s : State) : Option Running × CsrWord := (s.running, s.clock)

theorem timing_of_running {s : State} {position : Option Running} (h : s.running = position) :
    s.timing = (position, s.clock) := congrArg (·, s.clock) h

/-- The position after `r` of a macro that nothing ends early (R191, R213). -/
def Running.advance (r : Running) : Option Running :=
  if r.seq + 1 = r.mctx.total then none else some ⟨r.mctx, r.seq + 1⟩

/-- The timing after an engine step that raises no error and detects no fault, from the timing before it: at rest the
same, inside a macro one position and one cycle on. -/
def timingAfter : Option Running × CsrWord → Option Running × CsrWord
  | (none, c) => (none, c)
  | (some r, c) => (r.advance, c + 1#64)

/-- The macro has been ended by an error or by a detected fault (R221, R228). -/
def EndedEarly (s : State) : Prop := s.running = none ∧ (s.phase = .halted ∨ s.phase = .faultDetected)

/-- After a completed micro-op a fault has been detected, or the position alone has advanced. -/
theorem afterMicroOp_timing {u : State} (r : Running) (g : Stage) (off : Nat) (goesOn : u.running ≠ none) :
    EndedEarly (u.afterMicroOp r g off) ∨ (u.afterMicroOp r g off).timing = (r.advance, u.clock) := by
  have clock := (afterMicroOp_controlMoved u r g off).clock
  rcases afterMicroOp_cases u r g off with ⟨stopped, -⟩ | ⟨-, -, -, -, e⟩ | ⟨-, last, e⟩ | ⟨-, more, e⟩
  · exact absurd stopped goesOn
  · exact .inl (e ▸ ⟨rfl, .inr rfl⟩)
  · have ended : (u.afterMicroOp r g off).running = none := e ▸ finish_running u r.mctx
    exact .inr (by rw [timing_of_running ended, clock, Running.advance, if_pos last])
  · have next : (u.afterMicroOp r g off).running = some ⟨r.mctx, r.seq + 1⟩ := e ▸ rfl
    exact .inr (by rw [timing_of_running next, clock, Running.advance, if_neg more])

/-- An engine step ends the macro early, or its timing follows from the timing before it (R302). -/
theorem engineStep_timing {s t : State} (h : engineStep s = .next t) :
    EndedEarly t ∨ t.timing = timingAfter s.timing := by
  cases hr : s.running with
  | none =>
    cases (engineStep_of_none hr).symm.trans h
    exact .inr (by rw [timing_of_running hr, timingAfter])
  | some r =>
    obtain ⟨g, off, -, ⟨word, error⟩ | ⟨u, rd, v, retired, rfl⟩⟩ := engineStep_running_cases hr h
    · obtain ⟨halted, stopped⟩ := error.halt (.inr rfl)
      exact .inl ⟨stopped, .inl halted⟩
    · obtain ⟨p, entered⟩ := enterStage_eq s g off
      obtain ⟨-, running, -, -⟩ := retired.control
      have goesOn : u.running ≠ none := by simp [running, entered, hr]
      have clock : u.clock = s.clock + 1#64 := by rw [retired.counted rfl, entered, enterPhase_clock]
      rw [timing_of_running hr, timingAfter, ← clock]
      exact afterMicroOp_timing r g off goesOn

/-- A run of several steps that answers a next state begins with a step that does. -/
theorem run_succ_cases {M : Host.Core} {n : Nat} {s t : M.State} (h : M.run (n + 1) s = .next t) :
    ∃ u, M.step s = .next u ∧ M.run n u = .next t := by
  rw [Host.Core.run] at h
  split at h
  · exact ⟨_, ‹_›, h⟩
  · cases h
  · cases h

/-- With the host idle, a run that ends in neither HALTED nor FAULT_DETECTED has advanced the timing at each step: a
macro ended early would have rested there. -/
theorem run_timing {n : Nat} {s t : State} (idle : HostIdle s) (ran : Host.Core.run Sys2Proof.core n s = .next t)
    (unhalted : t.phase ≠ .halted) (undetected : t.phase ≠ .faultDetected) :
    t.timing = timingAfter^[n] s.timing := by
  induction n generalizing s with
  | zero =>
    cases ran
    rfl
  | succ n ih =>
    obtain ⟨u, stepped, rest⟩ := run_succ_cases ran
    have engine : engineStep s = .next u := (step_of_idle idle).symm.trans stepped
    have idle' : HostIdle u := (engineStep_host engine).1.trans idle
    rcases engineStep_timing engine with ⟨stopped, early⟩ | advanced
    · cases (run_of_rest stopped idle' n).symm.trans rest
      exact absurd early (not_or_intro unhalted undetected)
    · rw [ih idle' rest, advanced, Function.iterate_succ_apply]

/-- Settles O28: both runs have the timing that the number of steps gives from the common start. -/
theorem cycleCountIsIndependentOfData : Obligations.CycleCountIsIndependentOfData := by
  intro s₁ s₂ t₁ t₂ n running clock idle₁ idle₂ ran₁ ran₂ halted₁ detected₁ halted₂ detected₂
  have start : s₁.timing = s₂.timing := Prod.ext running clock
  have same : t₁.timing = t₂.timing := by
    rw [run_timing idle₁ ran₁ halted₁ detected₁, run_timing idle₂ ran₂ halted₂ detected₂, start]
  exact ⟨congrArg Prod.snd same, congrArg Prod.fst same⟩

end Sys2Proof.Machine
